-- ==== Sys2Proof/Word.lean ====
section
/-!
DEFINITION. The widths the spec names: a register's byte, a program word, a nibble that selects a register, a 12-bit
address (00_scope.md R5, R8; 30_encoding.md R63). All values are unsigned.
-/

namespace Sys2Proof

/-- A `u8`: a general register, a timer, a memory cell, the literal `KK` (R20, R27, R45, R63). -/
abbrev Byte := BitVec 8

/-- A `u16`: an instruction word, PC, the storage of I, a stack entry (R5). -/
abbrev Word := BitVec 16

/-- A 4-bit field: a register index `X` or `Y`, the literal `N` (R22, R63). -/
abbrev Nibble := BitVec 4

/-- A `u12`: the address field `NNN` (R63). -/
abbrev Addr := BitVec 12

end Sys2Proof
end

