-- ==== Sys2Proof/Syntax.lean ====
section
/-!
DEFINITION. The instructions: one constructor for each of the 35 patterns of 30_encoding.md R70, with the fields the
pattern names, and the decoder's descriptor (R66), which adds the unknown words. A register index is 4 bits wide, so an
index outside 0..15 cannot be built (10_state.md R22, 93_implementation_defined.md I11).
-/

namespace Sys2Proof

/-- The 35 opcode patterns (R69, R70). Constructors named `unimpl…` are recognised and not implemented
(43_unimplemented.md); their names give the pattern, since the spec gives them no effect of their own. -/
inductive Instr where
  | nop
  | unimpl00E0
  | ret
  | jp (nnn : Addr)
  | call (nnn : Addr)
  | seImm (x : Nibble) (kk : Byte)
  | sneImm (x : Nibble) (kk : Byte)
  | seReg (x y : Nibble)
  | ldImm (x : Nibble) (kk : Byte)
  | addImm (x : Nibble) (kk : Byte)
  | ldReg (x y : Nibble)
  | or (x y : Nibble)
  | and (x y : Nibble)
  | xor (x y : Nibble)
  | addReg (x y : Nibble)
  | sub (x y : Nibble)
  | shr (x y : Nibble)
  | subn (x y : Nibble)
  | shl (x y : Nibble)
  | sneReg (x y : Nibble)
  | ldI (nnn : Addr)
  | jpV0 (nnn : Addr)
  | rnd (x : Nibble) (kk : Byte)
  | unimplDXYN (x y n : Nibble)
  | unimplEX9E (x : Nibble)
  | unimplEXA1 (x : Nibble)
  | unimplFX07 (x : Nibble)
  | unimplFX0A (x : Nibble)
  | unimplFX15 (x : Nibble)
  | unimplFX18 (x : Nibble)
  | unimplFX1E (x : Nibble)
  | unimplFX29 (x : Nibble)
  | unimplFX33 (x : Nibble)
  | unimplFX55 (x : Nibble)
  | unimplFX65 (x : Nibble)
deriving DecidableEq, Repr

/-- The decoder's result (R66): an instruction of the table, or `Unknown{w}`, the rejection by name that carries the
word. -/
inductive Descriptor where
  | instr (i : Instr)
  | unknown (w : Word)
deriving DecidableEq, Repr

/-- The 13 pattern names an Unimplemented descriptor carries (R66). -/
inductive UnimplPattern where
  | p00E0 | pDXYN | pEX9E | pEXA1 | pFX07 | pFX0A | pFX15 | pFX18 | pFX1E | pFX29 | pFX33 | pFX55 | pFX65
deriving DecidableEq, Repr

/-- The 24 tags of R66, `Unimplemented` with its pattern. -/
inductive Tag where
  | nop | ret | jp | call | seImm | sneImm | seReg | sneReg | ldImm | addImm | ldReg | or | and | xor | addReg | sub
  | shr | subn | shl | ldI | jpV0 | rnd
  | unimplemented (p : UnimplPattern)
  | unknown
deriving DecidableEq, Repr

/-- The tag of an instruction's descriptor (R66). -/
def Instr.tag : Instr → Tag
  | .nop => .nop
  | .unimpl00E0 => .unimplemented .p00E0
  | .ret => .ret
  | .jp _ => .jp
  | .call _ => .call
  | .seImm _ _ => .seImm
  | .sneImm _ _ => .sneImm
  | .seReg _ _ => .seReg
  | .ldImm _ _ => .ldImm
  | .addImm _ _ => .addImm
  | .ldReg _ _ => .ldReg
  | .or _ _ => .or
  | .and _ _ => .and
  | .xor _ _ => .xor
  | .addReg _ _ => .addReg
  | .sub _ _ => .sub
  | .shr _ _ => .shr
  | .subn _ _ => .subn
  | .shl _ _ => .shl
  | .sneReg _ _ => .sneReg
  | .ldI _ => .ldI
  | .jpV0 _ => .jpV0
  | .rnd _ _ => .rnd
  | .unimplDXYN _ _ _ => .unimplemented .pDXYN
  | .unimplEX9E _ => .unimplemented .pEX9E
  | .unimplEXA1 _ => .unimplemented .pEXA1
  | .unimplFX07 _ => .unimplemented .pFX07
  | .unimplFX0A _ => .unimplemented .pFX0A
  | .unimplFX15 _ => .unimplemented .pFX15
  | .unimplFX18 _ => .unimplemented .pFX18
  | .unimplFX1E _ => .unimplemented .pFX1E
  | .unimplFX29 _ => .unimplemented .pFX29
  | .unimplFX33 _ => .unimplemented .pFX33
  | .unimplFX55 _ => .unimplemented .pFX55
  | .unimplFX65 _ => .unimplemented .pFX65

/-- The tag of a descriptor (R66). -/
def Descriptor.tag : Descriptor → Tag
  | .instr i => i.tag
  | .unknown _ => .unknown

/-- Whether a pattern is one of the 13 recognised and unimplemented ones (R69). -/
def Instr.unimplemented (i : Instr) : Bool :=
  match i.tag with
  | .unimplemented _ => true
  | _ => false

end Sys2Proof
end

