-- ==== Sys2Proof/WellFormed.lean ====
section
/-!
DEFINITION. Which descriptors are well formed. Every field of an instruction has exactly its width as its type, so every
`Instr` is well formed (10_state.md R22); `Unknown{w}` is well formed when `w` lies in the unknown space of
30_encoding.md R71, whose six groups are written here from that table, apart from the decoder.
-/

namespace Sys2Proof

/-- `0NNN` other than the words 0x0000, 0x00E0 and 0x00EE (R71). -/
def unknownGroup0 (w : Word) : Bool :=
  w &&& 0xF000 == 0x0000 && w != 0x0000 && w != 0x00E0 && w != 0x00EE

/-- `5XYn` with n ≠ 0 (R71). -/
def unknownGroup5 (w : Word) : Bool :=
  w &&& 0xF000 == 0x5000 && w &&& 0x000F != 0x0000

/-- `8XYn` with n in 8, 9, A, B, C, D, F (R71). -/
def unknownGroup8 (w : Word) : Bool :=
  w &&& 0xF000 == 0x8000 && [0x8, 0x9, 0xA, 0xB, 0xC, 0xD, 0xF].contains (w &&& 0x000F)

/-- `9XYn` with n ≠ 0 (R71). -/
def unknownGroup9 (w : Word) : Bool :=
  w &&& 0xF000 == 0x9000 && w &&& 0x000F != 0x0000

/-- `EXkk` with kk not 9E or A1 (R71). -/
def unknownGroupE (w : Word) : Bool :=
  w &&& 0xF000 == 0xE000 && !([0x9E, 0xA1].contains (w &&& 0x00FF))

/-- `FXkk` with kk none of the nine listed bytes (R71). -/
def unknownGroupF (w : Word) : Bool :=
  w &&& 0xF000 == 0xF000 && !([0x07, 0x0A, 0x15, 0x18, 0x1E, 0x29, 0x33, 0x55, 0x65].contains (w &&& 0x00FF))

/-- The unknown space of R71. -/
def inUnknownSpace (w : Word) : Bool :=
  unknownGroup0 w || unknownGroup5 w || unknownGroup8 w || unknownGroup9 w || unknownGroupE w || unknownGroupF w

/-- A descriptor the decoder can give (R65, R71). -/
def Descriptor.wellFormed : Descriptor → Bool
  | .instr _ => true
  | .unknown w => inUnknownSpace w

end Sys2Proof
end

