-- ==== Sys2Proof/Decode.lean ====
section
/-!
DEFINITION. The opcode decoder and the encoder (30_encoding.md sections 1 to 3): the fields of a word, the decoder of
R67, the encoder of R68, and the opcode map of R70 as data. The decoder reads only its word (R65).
-/

namespace Sys2Proof

/-! ## Fields of a word (R63) -/

/-- `op = w[15:12]`. -/
def fieldOp (w : Word) : Nibble := w.extractLsb' 12 4

/-- `x = w[11:8]`. -/
def fieldX (w : Word) : Nibble := w.extractLsb' 8 4

/-- `y = w[7:4]`. -/
def fieldY (w : Word) : Nibble := w.extractLsb' 4 4

/-- `n = w[3:0]`. -/
def fieldN (w : Word) : Nibble := w.extractLsb' 0 4

/-- `kk = w[7:0]`. -/
def fieldKK (w : Word) : Byte := w.extractLsb' 0 8

/-- `nnn = w[11:0]`. -/
def fieldNNN (w : Word) : Addr := w.extractLsb' 0 12

/-- The byte order of an instruction word, decided here once: the byte at the lower address is bits 15:8
(20_memory.md R50). -/
def wordOfBytes (hi lo : Byte) : Word := hi ++ lo

/-- The byte of a word stored at the lower address (R50). -/
def highByte (w : Word) : Byte := w.extractLsb' 8 8

/-- The byte of a word stored at the higher address (R50). -/
def lowByte (w : Word) : Byte := w.extractLsb' 0 8

/-! ## The decoder (R67) -/

/-- The `0` family: three fixed words, any other `0NNN` is Unknown (R67, 90_conflicts.md C2). -/
def decode0 (w : Word) : Descriptor :=
  if w = 0x0000 then .instr .nop
  else if w = 0x00E0 then .instr .unimpl00E0
  else if w = 0x00EE then .instr .ret
  else .unknown w

/-- The `8` family, by its low nibble (R67). -/
def decode8 (w : Word) : Descriptor :=
  let x := fieldX w
  let y := fieldY w
  let n := fieldN w
  if n = 0x0 then .instr (.ldReg x y)
  else if n = 0x1 then .instr (.or x y)
  else if n = 0x2 then .instr (.and x y)
  else if n = 0x3 then .instr (.xor x y)
  else if n = 0x4 then .instr (.addReg x y)
  else if n = 0x5 then .instr (.sub x y)
  else if n = 0x6 then .instr (.shr x y)
  else if n = 0x7 then .instr (.subn x y)
  else if n = 0xE then .instr (.shl x y)
  else .unknown w

/-- The `E` family, by its low byte (R67). -/
def decodeE (w : Word) : Descriptor :=
  let x := fieldX w
  let kk := fieldKK w
  if kk = 0x9E then .instr (.unimplEX9E x)
  else if kk = 0xA1 then .instr (.unimplEXA1 x)
  else .unknown w

/-- The `F` family, by its low byte (R67). -/
def decodeF (w : Word) : Descriptor :=
  let x := fieldX w
  let kk := fieldKK w
  if kk = 0x07 then .instr (.unimplFX07 x)
  else if kk = 0x0A then .instr (.unimplFX0A x)
  else if kk = 0x15 then .instr (.unimplFX15 x)
  else if kk = 0x18 then .instr (.unimplFX18 x)
  else if kk = 0x1E then .instr (.unimplFX1E x)
  else if kk = 0x29 then .instr (.unimplFX29 x)
  else if kk = 0x33 then .instr (.unimplFX33 x)
  else if kk = 0x55 then .instr (.unimplFX55 x)
  else if kk = 0x65 then .instr (.unimplFX65 x)
  else .unknown w

/-- The opcode decoder, total over the 65536 words (R65, R67). The `5` and `9` families need `N = 0`
(90_conflicts.md C2). -/
def decode (w : Word) : Descriptor :=
  let x := fieldX w
  let y := fieldY w
  let n := fieldN w
  let kk := fieldKK w
  let nnn := fieldNNN w
  if fieldOp w = 0x0 then decode0 w
  else if fieldOp w = 0x1 then .instr (.jp nnn)
  else if fieldOp w = 0x2 then .instr (.call nnn)
  else if fieldOp w = 0x3 then .instr (.seImm x kk)
  else if fieldOp w = 0x4 then .instr (.sneImm x kk)
  else if fieldOp w = 0x5 then (if n = 0x0 then .instr (.seReg x y) else .unknown w)
  else if fieldOp w = 0x6 then .instr (.ldImm x kk)
  else if fieldOp w = 0x7 then .instr (.addImm x kk)
  else if fieldOp w = 0x8 then decode8 w
  else if fieldOp w = 0x9 then (if n = 0x0 then .instr (.sneReg x y) else .unknown w)
  else if fieldOp w = 0xA then .instr (.ldI nnn)
  else if fieldOp w = 0xB then .instr (.jpV0 nnn)
  else if fieldOp w = 0xC then .instr (.rnd x kk)
  else if fieldOp w = 0xD then .instr (.unimplDXYN x y n)
  else if fieldOp w = 0xE then decodeE w
  else decodeF w

/-- The decoder on bytes in memory order: a word is two bytes, always (R72), and the rest of the bytes is left over.
Fewer than two bytes are no word. -/
def decodeBytes : List Byte → Option (Descriptor × List Byte)
  | hi :: lo :: rest => some (decode (wordOfBytes hi lo), rest)
  | _ => none

/-- The instruction word an opcode-table word of `nbits` bits stands for: the bits above `nbits` are 0, and every
instruction is one word (R72). -/
def tableWord (nbits w : Nat) : Word := BitVec.ofNat 16 (w % 2 ^ nbits)

/-- The instruction the decoder reads from an opcode-table word laid out as memory holds it, high byte first (R50). -/
def decodeTableWord (nbits w : Nat) : Option Instr :=
  match decodeBytes [highByte (tableWord nbits w), lowByte (tableWord nbits w)] with
  | some (.instr i, _) => some i
  | _ => none

/-! ## The encoder (R68) -/

/-- A word of four nibbles, most significant first. -/
def packNibbles (op x y n : Nibble) : Word := op ++ x ++ y ++ n

/-- A word `op X KK`. -/
def packXKK (op x : Nibble) (kk : Byte) : Word := op ++ x ++ kk

/-- A word `op NNN`. -/
def packNNN (op : Nibble) (nnn : Addr) : Word := op ++ nnn

/-- The word of an instruction (R68, R70). -/
def encode : Instr → Word
  | .nop => 0x0000
  | .unimpl00E0 => 0x00E0
  | .ret => 0x00EE
  | .jp nnn => packNNN 0x1 nnn
  | .call nnn => packNNN 0x2 nnn
  | .seImm x kk => packXKK 0x3 x kk
  | .sneImm x kk => packXKK 0x4 x kk
  | .seReg x y => packNibbles 0x5 x y 0x0
  | .ldImm x kk => packXKK 0x6 x kk
  | .addImm x kk => packXKK 0x7 x kk
  | .ldReg x y => packNibbles 0x8 x y 0x0
  | .or x y => packNibbles 0x8 x y 0x1
  | .and x y => packNibbles 0x8 x y 0x2
  | .xor x y => packNibbles 0x8 x y 0x3
  | .addReg x y => packNibbles 0x8 x y 0x4
  | .sub x y => packNibbles 0x8 x y 0x5
  | .shr x y => packNibbles 0x8 x y 0x6
  | .subn x y => packNibbles 0x8 x y 0x7
  | .shl x y => packNibbles 0x8 x y 0xE
  | .sneReg x y => packNibbles 0x9 x y 0x0
  | .ldI nnn => packNNN 0xA nnn
  | .jpV0 nnn => packNNN 0xB nnn
  | .rnd x kk => packXKK 0xC x kk
  | .unimplDXYN x y n => packNibbles 0xD x y n
  | .unimplEX9E x => packXKK 0xE x 0x9E
  | .unimplEXA1 x => packXKK 0xE x 0xA1
  | .unimplFX07 x => packXKK 0xF x 0x07
  | .unimplFX0A x => packXKK 0xF x 0x0A
  | .unimplFX15 x => packXKK 0xF x 0x15
  | .unimplFX18 x => packXKK 0xF x 0x18
  | .unimplFX1E x => packXKK 0xF x 0x1E
  | .unimplFX29 x => packXKK 0xF x 0x29
  | .unimplFX33 x => packXKK 0xF x 0x33
  | .unimplFX55 x => packXKK 0xF x 0x55
  | .unimplFX65 x => packXKK 0xF x 0x65

/-- The word of a descriptor (R68). -/
def encodeDescriptor : Descriptor → Word
  | .instr i => encode i
  | .unknown w => w

/-! ## The opcode map (R70) -/

/-- One row of the opcode map: `w &&& mask = pattern` selects it. -/
structure OpcodeRow where
  pattern : Word
  mask : Word
deriving DecidableEq, Repr

/-- The row of the opcode map each instruction belongs to, with the match and mask of R70. -/
def Instr.row : Instr → OpcodeRow
  | .nop => ⟨0x0000, 0xFFFF⟩
  | .unimpl00E0 => ⟨0x00E0, 0xFFFF⟩
  | .ret => ⟨0x00EE, 0xFFFF⟩
  | .jp _ => ⟨0x1000, 0xF000⟩
  | .call _ => ⟨0x2000, 0xF000⟩
  | .seImm _ _ => ⟨0x3000, 0xF000⟩
  | .sneImm _ _ => ⟨0x4000, 0xF000⟩
  | .seReg _ _ => ⟨0x5000, 0xF00F⟩
  | .ldImm _ _ => ⟨0x6000, 0xF000⟩
  | .addImm _ _ => ⟨0x7000, 0xF000⟩
  | .ldReg _ _ => ⟨0x8000, 0xF00F⟩
  | .or _ _ => ⟨0x8001, 0xF00F⟩
  | .and _ _ => ⟨0x8002, 0xF00F⟩
  | .xor _ _ => ⟨0x8003, 0xF00F⟩
  | .addReg _ _ => ⟨0x8004, 0xF00F⟩
  | .sub _ _ => ⟨0x8005, 0xF00F⟩
  | .shr _ _ => ⟨0x8006, 0xF00F⟩
  | .subn _ _ => ⟨0x8007, 0xF00F⟩
  | .shl _ _ => ⟨0x800E, 0xF00F⟩
  | .sneReg _ _ => ⟨0x9000, 0xF00F⟩
  | .ldI _ => ⟨0xA000, 0xF000⟩
  | .jpV0 _ => ⟨0xB000, 0xF000⟩
  | .rnd _ _ => ⟨0xC000, 0xF000⟩
  | .unimplDXYN _ _ _ => ⟨0xD000, 0xF000⟩
  | .unimplEX9E _ => ⟨0xE09E, 0xF0FF⟩
  | .unimplEXA1 _ => ⟨0xE0A1, 0xF0FF⟩
  | .unimplFX07 _ => ⟨0xF007, 0xF0FF⟩
  | .unimplFX0A _ => ⟨0xF00A, 0xF0FF⟩
  | .unimplFX15 _ => ⟨0xF015, 0xF0FF⟩
  | .unimplFX18 _ => ⟨0xF018, 0xF0FF⟩
  | .unimplFX1E _ => ⟨0xF01E, 0xF0FF⟩
  | .unimplFX29 _ => ⟨0xF029, 0xF0FF⟩
  | .unimplFX33 _ => ⟨0xF033, 0xF0FF⟩
  | .unimplFX55 _ => ⟨0xF055, 0xF0FF⟩
  | .unimplFX65 _ => ⟨0xF065, 0xF0FF⟩

/-- The opcode map of R70, one row per pattern: one representative of each constructor gives its row. -/
def opcodeMap : List OpcodeRow :=
  ([.nop, .unimpl00E0, .ret, .jp 0, .call 0, .seImm 0 0, .sneImm 0 0, .seReg 0 0, .ldImm 0 0, .addImm 0 0,
    .ldReg 0 0, .or 0 0, .and 0 0, .xor 0 0, .addReg 0 0, .sub 0 0, .shr 0 0, .subn 0 0, .shl 0 0, .sneReg 0 0,
    .ldI 0, .jpV0 0, .rnd 0 0, .unimplDXYN 0 0 0, .unimplEX9E 0, .unimplEXA1 0, .unimplFX07 0, .unimplFX0A 0,
    .unimplFX15 0, .unimplFX18 0, .unimplFX1E 0, .unimplFX29 0, .unimplFX33 0, .unimplFX55 0,
    .unimplFX65 0] : List Instr).map Instr.row

/-- Whether a word lies in a row of the opcode map (R70). -/
def OpcodeRow.selects (r : OpcodeRow) (w : Word) : Bool := w &&& r.mask == r.pattern

end Sys2Proof
end

