-- ==== Sys2Proof/Config.lean ====
section
/-!
DEFINITION. What the implementation fixes (00_scope.md R5), the record a RESET latches (R13), and the free value of
the model.
-/

namespace Sys2Proof

/-- The configuration `cfg` of a session: latched by RESET, read by nothing but the rules named here, written by no
instruction and by no other transaction (R13, 10_state.md R30, R31, 70_reset_and_hazards.md R150). -/
structure SessionConfig where
  /-- QUIRK_SHIFT_SOURCE_VY: SHR and SHL shift V[Y] when true, V[X] when false (R103, R105). -/
  shiftSourceVy : Bool
  /-- QUIRK_LOAD_STORE_ADVANCES_I: reserved, latched, without effect (43_unimplemented.md R124). -/
  loadStoreAdvancesI : Bool
  /-- QUIRK_ST_EQUALS_BUZZER: the buzzer follows the sound timer when true (60_exceptions.md R142). -/
  stEqualsBuzzer : Bool
  /-- CYCLES_PER_FRAME: the steps one Running tick executes; any natural, 0 included (R31, R150). -/
  cyclesPerFrame : Nat
deriving DecidableEq, Repr

/-- MEM_SIZE (R5). -/
def Config.memSize : Nat := 4096

/-- PROGRAM_BASE, which is also PC_RESET (R5). -/
def Config.programBase : Nat := 0x200

/-- PROGRAM_MAX: the bytes from PROGRAM_BASE to the end of memory (R5, 70_reset_and_hazards.md R151). -/
def Config.programMax : Nat := Config.memSize - Config.programBase

/-- DESIGN CHOICE (unsafe, notes/assumptions/2.md): RESET takes the configuration as an argument and the spec gives
no default (R6, R36); `State.reset` has no argument and uses the one 95_test_vectors.md section 0 uses. No statement
rests on it. -/
def Config.resetSession : SessionConfig :=
  { shiftSourceVy := false, loadStoreAdvancesI := false, stEqualsBuzzer := true, cyclesPerFrame := 1 }

/-- DESIGN CHOICE (safe, notes/assumptions/3.md): the byte an RND draws when the host supplied none with the TICK;
a free value, one for each such draw (42_index_jump_random.md R108). -/
opaque Config.freeRandom : Nat → Byte

end Sys2Proof
end

