-- ==== Sys2Proof/Machine/State.lean ====
section
/-!
DEFINITION. The state of the core (10_state.md, 20_memory.md R45), as plain data, its value after RESET, and the reasons
a step can stop.
-/

namespace Sys2Proof.Machine

/-- Memory: the cells that do not hold 0x00, as (address, byte), addresses strictly rising and below 4096. An unlisted
cell holds 0x00, the reset contents of 10_state.md R36 (notes/assumptions/1.md). -/
abbrev Memory := List Host.Cell

/-- `state` of the execution_state_machine (R32). -/
inductive RunState where
  | running
  | halted
deriving DecidableEq, Repr

/-- The error kinds (60_exceptions.md R125). -/
inductive ErrorKind where
  | unknownOpcode
  | stackOverflow
  | stackUnderflow
  | outOfSpace
  | invalidRegister
deriving DecidableEq, Repr

/-- A diagnostic record `{code, kind, pc, word}` (R127). -/
structure Diagnostic where
  code : Byte
  kind : ErrorKind
  pc : Word
  word : Word
deriving DecidableEq, Repr

/-- Everything the spec gives the core, and one field of the model's own (`freeDraws`). -/
structure State where
  /-- V[0..15]; V[15] is VF, the flag (R20, R21). -/
  v : Vector Byte 16
  /-- I, 16 bits of storage (R23). -/
  i : Word
  /-- PC (R24). -/
  pc : Word
  /-- stack[0..15] (R25). -/
  stack : Vector Word 16
  /-- SP, the depth, in 0..16 (R26). -/
  sp : Fin 17
  /-- DT (R27). -/
  dt : Byte
  /-- ST (R28). -/
  st : Byte
  /-- mem[0x000..0xFFF] (R45). -/
  mem : Memory
  /-- The latched configuration (R30, R31). -/
  cfg : SessionConfig
  /-- Running or Halted (R32). -/
  run : RunState
  /-- The current tick's diagnostic list, transient (R34, R127). -/
  diagnostics : List Diagnostic
  /-- The bytes of the current TICK's `rand` input not yet drawn, transient (00_scope.md R15). -/
  rand : List Byte
  /-- The model's own: how many draws found `rand` empty (notes/assumptions/3.md, 4.md). -/
  freeDraws : Nat
deriving DecidableEq, Repr

/-- Why a step stops with a fault. It has no constructor: no rule of the spec stops the core with one, since every
error is reported as a diagnostic and execution goes on (60_exceptions.md R128, R135). -/
inductive Fault where
deriving DecidableEq, Repr

/-- Why a step is refused. -/
inductive Refusal where
  /-- Raised by an arm of `exec` whose instruction has no meaning yet (safe: the run stops). No arm raises it. -/
  | notModelled (mnemonic : String)
deriving DecidableEq, Repr

/-- The state after `RESET(cfg)` (10_state.md R36, 70_reset_and_hazards.md R149). -/
def State.resetWith (cfg : SessionConfig) : State where
  v := Vector.replicate 16 0x00
  i := 0x000
  pc := 0x200
  stack := Vector.replicate 16 0x0000
  sp := 0
  dt := 0
  st := 0
  mem := []
  cfg := cfg
  run := .running
  diagnostics := []
  rand := []
  freeDraws := 0

/-- The machine right after reset, with the configuration of notes/assumptions/2.md. -/
def State.reset : State := State.resetWith Config.resetSession

end Sys2Proof.Machine
end

