-- ==== Sys2Proof/Machine/Ops.lean ====
section
/-!
DEFINITION. The named operations over memory and registers: the two memory primitives (20_memory.md R46, R47), the
register file's ports (00_scope.md R18), the stack primitives (10_state.md R26), the fetch (30_encoding.md R75), the
draw (42_index_jump_random.md R108), and `raise` (00_scope.md R10).
-/

namespace Sys2Proof.Machine

/-! ## Memory -/

/-- What an unlisted cell reads as: the reset contents (10_state.md R36). -/
def Memory.blank : Byte := 0x00

/-- The cell an address names: `addr & 0xFFF` (R46, R48). -/
def Memory.cellOf (addr : Nat) : Nat := addr % Config.memSize

/-- The byte listed for a cell. -/
def Memory.get : Memory → Nat → Byte
  | [], _ => Memory.blank
  | (b, v) :: rest, a => if a = b then v else Memory.get rest a

/-- Put a byte in a cell, keeping the addresses rising and listing no cell that reads as blank. -/
def Memory.put : Memory → Nat → Byte → Memory
  | [], a, v => if v = Memory.blank then [] else [(a, v)]
  | (b, u) :: rest, a, v =>
    if a < b then (if v = Memory.blank then (b, u) :: rest else (a, v) :: (b, u) :: rest)
    else if a = b then (if v = Memory.blank then rest else (a, v) :: rest)
    else (b, u) :: Memory.put rest a v

/-- `MemRead(addr, 1)`: the masked cell, without side effect (R46). -/
def Memory.read (m : Memory) (addr : Nat) : Byte := Memory.get m (Memory.cellOf addr)

/-- `MemWrite(addr, 1, v)`: sets the masked cell and changes no other (R47). -/
def Memory.write (m : Memory) (addr : Nat) (v : Byte) : Memory := Memory.put m (Memory.cellOf addr) v

/-- Consecutive `MemWrite`s from an address up (70_reset_and_hazards.md R151). -/
def Memory.writeBytes : Memory → Nat → List Byte → Memory
  | m, _, [] => m
  | m, addr, b :: rest => Memory.writeBytes (Memory.write m addr b) (addr + 1) rest

/-- The canonical form of a list with every address at least `lo`: rising, in the 4096 cells, no blank listed. -/
def Memory.wfFrom : Nat → Memory → Bool
  | _, [] => true
  | lo, (a, v) :: rest => decide (lo ≤ a) && decide (a < Config.memSize) && v != Memory.blank && Memory.wfFrom (a + 1) rest

/-- The canonical form of memory (notes/assumptions/1.md). -/
def Memory.wf (m : Memory) : Bool := Memory.wfFrom 0 m

/-! ## The register file (00_scope.md R18) -/

/-- `V[x]` (R20). -/
def State.getV (s : State) (x : Nibble) : Byte := s.v[x.toNat]'x.isLt

/-- `V[x] <- b` (R20). -/
def State.setV (s : State) (x : Nibble) (b : Byte) : State := { s with v := s.v.set x.toNat b x.isLt }

/-- The index of VF, the flag register (R21). -/
def flagIndex : Nibble := 0xF

/-- `I`, masked on read (10_state.md R23). -/
def State.getI (s : State) : Word := s.i &&& 0x0FFF

/-- `I <- v`, masked on write (R23). -/
def State.setI (s : State) (w : Word) : State := { s with i := w &&& 0x0FFF }

/-- `PC <- target` (R24). -/
def State.setPc (s : State) (w : Word) : State := { s with pc := w }

/-- `MemRead(addr, 1)` (20_memory.md R46). -/
def State.readMem (s : State) (addr : Nat) : Byte := Memory.read s.mem addr

/-- `MemWrite(addr, 1, v)` (R47). -/
def State.writeMem (s : State) (addr : Nat) (b : Byte) : State := { s with mem := Memory.write s.mem addr b }

/-- A result and a flag, the flag last, so that it stays when `x` is VF itself (41_load_alu.md R94, 00_scope.md R11). -/
def State.setResultAndFlag (s : State) (x : Nibble) (result flag : Byte) : State :=
  (s.setV x result).setV flagIndex flag

/-! ## Fetch (30_encoding.md R75) -/

/-- The word at an address: two masked byte reads, high byte first (20_memory.md R50). -/
def State.wordAt (s : State) (addr : Nat) : Word := wordOfBytes (s.readMem addr) (s.readMem (addr + 1))

/-- The word the next step fetches (R75). -/
def State.fetchWord (s : State) : Word := s.wordAt s.pc.toNat

/-- The fetch's advance of PC, `(pc0 + 2) mod 2^16` (R75). -/
def State.advancePc (s : State) : State := s.setPc (s.pc + 2)

/-- `pc0` during the execute phase: the address the current instruction was fetched from, which the advanced PC
determines (DEDUCED, notes/assumptions/6.md). -/
def State.fetchedFrom (s : State) : Word := s.pc - 2

/-- A skip that is taken adds 2 more to PC (10_state.md R24). -/
def State.skipIf (s : State) (c : Bool) : State := if c then s.setPc (s.pc + 2) else s

/-! ## Errors: the one shared operation (00_scope.md R10, 60_exceptions.md R125 to R136)

Nothing is saved, no mode changes and control is not redirected: there is no trap entry and no return from one (R135,
R136). A raise appends a record and ends the execute phase; the fetch's advance of PC stands. -/

/-- The numeric code of an error kind (R126). -/
def ErrorKind.code : ErrorKind → Byte
  | .unknownOpcode => 1
  | .stackOverflow => 2
  | .stackUnderflow => 3
  | .outOfSpace => 4
  | .invalidRegister => 5

/-- The record of an error of the instruction `word` at `pc0` (R127). -/
def Diagnostic.of (kind : ErrorKind) (pc0 word : Word) : Diagnostic :=
  { code := kind.code, kind := kind, pc := pc0, word := word }

/-- `raise E({pc: pc0, word: w})` in the execute phase of the instruction whose word is `word` (R10, R127). -/
def State.raise (s : State) (kind : ErrorKind) (word : Word) : State :=
  { s with diagnostics := s.diagnostics ++ [Diagnostic.of kind s.fetchedFrom word] }

/-! ## The call stack (10_state.md R25, R26) -/

/-- `push_return(a)`: none is its StackOverflow (R26). -/
def State.pushReturn (s : State) (a : Word) : Option State :=
  if h : s.sp.val < 16 then
    some { s with stack := s.stack.set s.sp.val a h, sp := ⟨s.sp.val + 1, Nat.succ_lt_succ h⟩ }
  else none

/-- `pop_return()`: the popped entry and the state after, the entry not cleared (R25); none is its StackUnderflow
(R26). -/
def State.popReturn (s : State) : Option (Word × State) :=
  match s.sp with
  | ⟨0, _⟩ => none
  | ⟨n + 1, h⟩ => some (s.stack[n]'(Nat.lt_of_succ_lt_succ h), { s with sp := ⟨n, Nat.lt_of_succ_lt h⟩ })

/-! ## The draw (42_index_jump_random.md R108) -/

/-- `draw RAND`: the next byte the host supplied with the tick; a free value where it supplied none
(notes/assumptions/3.md). -/
def State.draw (s : State) : Byte × State :=
  match s.rand with
  | r :: rest => (r, { s with rand := rest })
  | [] => (Config.freeRandom s.freeDraws, { s with freeDraws := s.freeDraws + 1 })

/-! ## Timers (10_state.md R29, 60_exceptions.md R141) -/

/-- The setters' clamp to [0, 255] of an unbounded integer (R29). -/
def clampByte (v : Int) : Byte :=
  if v < 0 then 0 else if v > 255 then 255 else BitVec.ofInt 8 v

/-- `dec(t)`: a timer at 0 stays at 0 (R141). -/
def decTimer (t : Byte) : Byte := if t.toNat > 0 then t - 1 else 0

end Sys2Proof.Machine
end

