-- ==== Sys2Proof/Machine/Operands.lean ====
section
/-!
DEFINITION. The operand forms of the instructions that are not a plain register, literal or address (30_encoding.md R64,
41_load_alu.md R103, R105, 42_index_jump_random.md R107). No data addressing mode exists (20_memory.md R55).
-/

namespace Sys2Proof.Machine

/-- `zext_16(NNN)`: an address field as a PC or I value (R64). -/
def zextAddr (nnn : Addr) : Word := nnn.setWidth 16

/-- The source of a shift: V[Y] when QUIRK_SHIFT_SOURCE_VY is set, V[X] otherwise (R103, R105). -/
def State.shiftSource (s : State) (x y : Nibble) : Byte :=
  if s.cfg.shiftSourceVy then s.getV y else s.getV x

/-- The target of JP V0: `(NNN + v) & 0xFFF`, the sum taken on naturals (R64, R107). -/
def indexedTarget (nnn : Addr) (v : Byte) : Word := BitVec.ofNat 16 (nnn.toNat + v.toNat) &&& 0x0FFF

end Sys2Proof.Machine
end

