-- ==== Sys2Proof/Machine/Control.lean ====
section
/-!
DEFINITION. Control flow: NOP, RET, JP, CALL and the skips (40_control.md R85 to R92). Each meaning is the execute phase
of 30_encoding.md R75: PC already holds the address of the next sequential instruction.
-/

namespace Sys2Proof.Machine

/-- NOP (R85). -/
def execNop (s : State) : Host.Outcome State Fault Refusal := .next s

/-- RET: pop into PC; StackUnderflow when the stack is empty (R86). -/
def execRet (s : State) : Host.Outcome State Fault Refusal :=
  match s.popReturn with
  | some (a, t) => .next (t.setPc a)
  | none => .next (s.raise .stackUnderflow (encode .ret))

/-- JP addr (R87). -/
def execJp (nnn : Addr) (s : State) : Host.Outcome State Fault Refusal := .next (s.setPc (zextAddr nnn))

/-- CALL addr: push the advanced PC, then jump; StackOverflow when the stack is full (R88). -/
def execCall (nnn : Addr) (s : State) : Host.Outcome State Fault Refusal :=
  match s.pushReturn s.pc with
  | some t => .next (t.setPc (zextAddr nnn))
  | none => .next (s.raise .stackOverflow (encode (.call nnn)))

/-- SE Vx, byte (R89). -/
def execSeImm (x : Nibble) (kk : Byte) (s : State) : Host.Outcome State Fault Refusal :=
  .next (s.skipIf (s.getV x == kk))

/-- SNE Vx, byte (R90). -/
def execSneImm (x : Nibble) (kk : Byte) (s : State) : Host.Outcome State Fault Refusal :=
  .next (s.skipIf (s.getV x != kk))

/-- SE Vx, Vy (R91). -/
def execSeReg (x y : Nibble) (s : State) : Host.Outcome State Fault Refusal :=
  .next (s.skipIf (s.getV x == s.getV y))

/-- SNE Vx, Vy (R92). -/
def execSneReg (x y : Nibble) (s : State) : Host.Outcome State Fault Refusal :=
  .next (s.skipIf (s.getV x != s.getV y))

end Sys2Proof.Machine
end

