-- ==== Sys2Proof/Machine/IndexJumpRandom.lean ====
section
/-!
DEFINITION. The index register, the indexed jump and the random byte (42_index_jump_random.md R106 to R108): the execute
phase of each.
-/

namespace Sys2Proof.Machine

/-- LD I, addr (R106). -/
def execLdI (nnn : Addr) (s : State) : Host.Outcome State Fault Refusal := .next (s.setI (zextAddr nnn))

/-- JP V0, addr (R107). -/
def execJpV0 (nnn : Addr) (s : State) : Host.Outcome State Fault Refusal :=
  .next (s.setPc (indexedTarget nnn (s.getV 0x0)))

/-- RND Vx, byte: one drawn byte, masked (R108). -/
def execRnd (x : Nibble) (kk : Byte) (s : State) : Host.Outcome State Fault Refusal :=
  .next (s.draw.2.setV x (s.draw.1 &&& kk))

end Sys2Proof.Machine
end

