-- ==== Sys2Proof/Machine/Flags.lean ====
section
/-!
DEFINITION. The results and flags of the arithmetic (41_load_alu.md R93, R94, R101 to R105): computed on naturals and
integers, and brought back to 8 bits at the end (00_scope.md R8).
-/

namespace Sys2Proof.Machine

/-- A flag's byte: 1 or 0 (R101 to R105). -/
def flagByte (c : Bool) : Byte := if c then 0x01 else 0x00

/-- `(a + b) mod 256` (R93). -/
def sumResult (a b : Byte) : Byte := BitVec.ofNat 8 (a.toNat + b.toNat)

/-- The carry of an addition: the sum exceeds 255 (R101). -/
def carryFlag (a b : Byte) : Byte := flagByte (decide (a.toNat + b.toNat > 255))

/-- `(a - b) mod 256`, on integers (R93). -/
def diffResult (a b : Byte) : Byte := BitVec.ofInt 8 ((a.toNat : Int) - (b.toNat : Int))

/-- The not-borrow flag of `a - b` (R102, R104). -/
def notBorrowFlag (a b : Byte) : Byte := flagByte (decide (a.toNat ≥ b.toNat))

/-- `s >> 1`, a 0 into bit 7 (R93, R103). -/
def shrResult (s : Byte) : Byte := s >>> 1

/-- Bit 0 of the source, the bit a right shift moves out (R103). -/
def shrFlag (s : Byte) : Byte := s &&& 0x01

/-- `(s << 1) mod 256`, a 0 into bit 0 (R93, R105). -/
def shlResult (s : Byte) : Byte := s <<< 1

/-- Bit 7 of the source, the bit a left shift moves out (R105). -/
def shlFlag (s : Byte) : Byte := (s >>> 7) &&& 0x01

end Sys2Proof.Machine
end

