-- ==== Sys2Proof/Machine/LoadAlu.lean ====
section
/-!
DEFINITION. Register loads and arithmetic (41_load_alu.md R95 to R105): the execute phase of each. Operands are read from
the state before the instruction (00_scope.md R11); the five flag writers write VF last (R94).
-/

namespace Sys2Proof.Machine

/-- LD Vx, byte (R95). -/
def execLdImm (x : Nibble) (kk : Byte) (s : State) : Host.Outcome State Fault Refusal := .next (s.setV x kk)

/-- ADD Vx, byte: no flag (R96). -/
def execAddImm (x : Nibble) (kk : Byte) (s : State) : Host.Outcome State Fault Refusal :=
  .next (s.setV x (sumResult (s.getV x) kk))

/-- LD Vx, Vy (R97). -/
def execLdReg (x y : Nibble) (s : State) : Host.Outcome State Fault Refusal := .next (s.setV x (s.getV y))

/-- OR Vx, Vy (R98). -/
def execOr (x y : Nibble) (s : State) : Host.Outcome State Fault Refusal :=
  .next (s.setV x (s.getV x ||| s.getV y))

/-- AND Vx, Vy (R99). -/
def execAnd (x y : Nibble) (s : State) : Host.Outcome State Fault Refusal :=
  .next (s.setV x (s.getV x &&& s.getV y))

/-- XOR Vx, Vy (R100). -/
def execXor (x y : Nibble) (s : State) : Host.Outcome State Fault Refusal :=
  .next (s.setV x (s.getV x ^^^ s.getV y))

/-- ADD Vx, Vy, with the carry in VF (R101). -/
def execAddReg (x y : Nibble) (s : State) : Host.Outcome State Fault Refusal :=
  let a := s.getV x
  let b := s.getV y
  .next (s.setResultAndFlag x (sumResult a b) (carryFlag a b))

/-- SUB Vx, Vy, with not-borrow in VF (R102). -/
def execSub (x y : Nibble) (s : State) : Host.Outcome State Fault Refusal :=
  let a := s.getV x
  let b := s.getV y
  .next (s.setResultAndFlag x (diffResult a b) (notBorrowFlag a b))

/-- SHR Vx, Vy, with the bit shifted out in VF (R103). -/
def execShr (x y : Nibble) (s : State) : Host.Outcome State Fault Refusal :=
  let src := s.shiftSource x y
  .next (s.setResultAndFlag x (shrResult src) (shrFlag src))

/-- SUBN Vx, Vy: Vy - Vx, with not-borrow in VF (R104). -/
def execSubn (x y : Nibble) (s : State) : Host.Outcome State Fault Refusal :=
  let a := s.getV x
  let b := s.getV y
  .next (s.setResultAndFlag x (diffResult b a) (notBorrowFlag b a))

/-- SHL Vx, Vy, with the bit shifted out in VF (R105). -/
def execShl (x y : Nibble) (s : State) : Host.Outcome State Fault Refusal :=
  let src := s.shiftSource x y
  .next (s.setResultAndFlag x (shlResult src) (shlFlag src))

end Sys2Proof.Machine
end

