-- ==== Sys2Proof/Machine/Unimplemented.lean ====
section
/-!
DEFINITION. The 13 recognised, unimplemented opcodes and the unknown words (43_unimplemented.md R109 to R124). The spec
gives each the same effect: one UnknownOpcode record and nothing else, PC keeping the fetch's advance. None of their
conventional effects belongs to this block (93_implementation_defined.md G2), and no quirk changes that (R124).
-/

namespace Sys2Proof.Machine

/-- The effect R109 and R123 share: report the word as UnknownOpcode. -/
def raiseUnknownOpcode (word : Word) (s : State) : Host.Outcome State Fault Refusal :=
  .next (s.raise .unknownOpcode word)

/-- An unknown word, `Unknown{w}` (R123). -/
def execUnknown (w : Word) (s : State) : Host.Outcome State Fault Refusal := raiseUnknownOpcode w s

/-- 00E0, recognised and unimplemented (R110). -/
def execUnimpl00E0 (s : State) : Host.Outcome State Fault Refusal :=
  raiseUnknownOpcode (encode .unimpl00E0) s

/-- DXYN, recognised and unimplemented (R111). -/
def execUnimplDXYN (x y n : Nibble) (s : State) : Host.Outcome State Fault Refusal :=
  raiseUnknownOpcode (encode (.unimplDXYN x y n)) s

/-- EX9E, recognised and unimplemented (R112). -/
def execUnimplEX9E (x : Nibble) (s : State) : Host.Outcome State Fault Refusal :=
  raiseUnknownOpcode (encode (.unimplEX9E x)) s

/-- EXA1, recognised and unimplemented (R113). -/
def execUnimplEXA1 (x : Nibble) (s : State) : Host.Outcome State Fault Refusal :=
  raiseUnknownOpcode (encode (.unimplEXA1 x)) s

/-- FX07, recognised and unimplemented (R114). -/
def execUnimplFX07 (x : Nibble) (s : State) : Host.Outcome State Fault Refusal :=
  raiseUnknownOpcode (encode (.unimplFX07 x)) s

/-- FX0A, recognised and unimplemented (R115). -/
def execUnimplFX0A (x : Nibble) (s : State) : Host.Outcome State Fault Refusal :=
  raiseUnknownOpcode (encode (.unimplFX0A x)) s

/-- FX15, recognised and unimplemented (R116). -/
def execUnimplFX15 (x : Nibble) (s : State) : Host.Outcome State Fault Refusal :=
  raiseUnknownOpcode (encode (.unimplFX15 x)) s

/-- FX18, recognised and unimplemented (R117). -/
def execUnimplFX18 (x : Nibble) (s : State) : Host.Outcome State Fault Refusal :=
  raiseUnknownOpcode (encode (.unimplFX18 x)) s

/-- FX1E, recognised and unimplemented (R118). -/
def execUnimplFX1E (x : Nibble) (s : State) : Host.Outcome State Fault Refusal :=
  raiseUnknownOpcode (encode (.unimplFX1E x)) s

/-- FX29, recognised and unimplemented (R119). -/
def execUnimplFX29 (x : Nibble) (s : State) : Host.Outcome State Fault Refusal :=
  raiseUnknownOpcode (encode (.unimplFX29 x)) s

/-- FX33, recognised and unimplemented (R120). -/
def execUnimplFX33 (x : Nibble) (s : State) : Host.Outcome State Fault Refusal :=
  raiseUnknownOpcode (encode (.unimplFX33 x)) s

/-- FX55, recognised and unimplemented (R121). -/
def execUnimplFX55 (x : Nibble) (s : State) : Host.Outcome State Fault Refusal :=
  raiseUnknownOpcode (encode (.unimplFX55 x)) s

/-- FX65, recognised and unimplemented (R122). -/
def execUnimplFX65 (x : Nibble) (s : State) : Host.Outcome State Fault Refusal :=
  raiseUnknownOpcode (encode (.unimplFX65 x)) s

end Sys2Proof.Machine
end

