-- ==== Sys2Proof/Machine/Dispatch.lean ====
section
/-!
DEFINITION. `execute(d)` for the instructions of the table: one arm per constructor, no default arm (30_encoding.md R77).
-/

namespace Sys2Proof.Machine

def exec (i : Instr) (s : State) : Host.Outcome State Fault Refusal :=
  match i with
  | .nop => Sys2Proof.Machine.execNop s
  | .unimpl00E0 => Sys2Proof.Machine.execUnimpl00E0 s
  | .ret => Sys2Proof.Machine.execRet s
  | .jp nnn => Sys2Proof.Machine.execJp nnn s
  | .call nnn => Sys2Proof.Machine.execCall nnn s
  | .seImm x kk => Sys2Proof.Machine.execSeImm x kk s
  | .sneImm x kk => Sys2Proof.Machine.execSneImm x kk s
  | .seReg x y => Sys2Proof.Machine.execSeReg x y s
  | .ldImm x kk => Sys2Proof.Machine.execLdImm x kk s
  | .addImm x kk => Sys2Proof.Machine.execAddImm x kk s
  | .ldReg x y => Sys2Proof.Machine.execLdReg x y s
  | .or x y => Sys2Proof.Machine.execOr x y s
  | .and x y => Sys2Proof.Machine.execAnd x y s
  | .xor x y => Sys2Proof.Machine.execXor x y s
  | .addReg x y => Sys2Proof.Machine.execAddReg x y s
  | .sub x y => Sys2Proof.Machine.execSub x y s
  | .shr x y => Sys2Proof.Machine.execShr x y s
  | .subn x y => Sys2Proof.Machine.execSubn x y s
  | .shl x y => Sys2Proof.Machine.execShl x y s
  | .sneReg x y => Sys2Proof.Machine.execSneReg x y s
  | .ldI nnn => Sys2Proof.Machine.execLdI nnn s
  | .jpV0 nnn => Sys2Proof.Machine.execJpV0 nnn s
  | .rnd x kk => Sys2Proof.Machine.execRnd x kk s
  | .unimplDXYN x y n => Sys2Proof.Machine.execUnimplDXYN x y n s
  | .unimplEX9E x => Sys2Proof.Machine.execUnimplEX9E x s
  | .unimplEXA1 x => Sys2Proof.Machine.execUnimplEXA1 x s
  | .unimplFX07 x => Sys2Proof.Machine.execUnimplFX07 x s
  | .unimplFX0A x => Sys2Proof.Machine.execUnimplFX0A x s
  | .unimplFX15 x => Sys2Proof.Machine.execUnimplFX15 x s
  | .unimplFX18 x => Sys2Proof.Machine.execUnimplFX18 x s
  | .unimplFX1E x => Sys2Proof.Machine.execUnimplFX1E x s
  | .unimplFX29 x => Sys2Proof.Machine.execUnimplFX29 x s
  | .unimplFX33 x => Sys2Proof.Machine.execUnimplFX33 x s
  | .unimplFX55 x => Sys2Proof.Machine.execUnimplFX55 x s
  | .unimplFX65 x => Sys2Proof.Machine.execUnimplFX65 x s

end Sys2Proof.Machine
end

