-- ==== Sys2Proof/Machine/Step.lean ====
section
/-!
DEFINITION. One step (30_encoding.md R75): fetch, advance PC, decode, execute. A step runs only while Running; a Halted
core runs none and keeps all its state (60_exceptions.md R139, R144, R148).
-/

namespace Sys2Proof.Machine

/-- `execute(d)` over the descriptor: the table's instructions and the unknown words (R77). -/
def execute (d : Descriptor) (s : State) : Host.Outcome State Fault Refusal :=
  match d with
  | .instr i => exec i s
  | .unknown w => execUnknown w s

/-- One step (R75). DEDUCED (notes/assumptions/5.md): asked to step while Halted, the core stays as it is. -/
def step (s : State) : Host.Outcome State Fault Refusal :=
  match s.run with
  | .running => execute (decode s.fetchWord) s.advancePc
  | .halted => .next s

/-- `s` with an opcode-table word stored where the next step fetches, and running, so that the next step runs it
(notes/assumptions/10.md). -/
def State.withFetchWord (s : State) (nbits w : Nat) : State :=
  { ((s.writeMem s.pc.toNat (highByte (tableWord nbits w))).writeMem (s.pc.toNat + 1) (lowByte (tableWord nbits w))) with
    run := .running }

end Sys2Proof.Machine
end

