-- ==== Sys2Proof/Machine/Assembler.lean ====
section
/-!
DEFINITION. The spec's assembler notation (30_encoding.md R73, R74) as data: a statement is a mnemonic and its operands,
and each statement is one word. The 13 unimplemented patterns and the unknown words are written `.word`.
-/

namespace Sys2Proof.Machine

/-- The mnemonics of R73, and the directive `.word`. -/
inductive Mnemonic where
  | nop | ret | jp | call | se | sne | ld | add | or | and | xor | sub | shr | subn | shl | rnd | word
deriving DecidableEq, Repr

/-- An operand of R73; `i` is the index register's name, `word` the number after `.word`. -/
inductive AsmOperand where
  | v (x : Nibble)
  | byte (kk : Byte)
  | addr (nnn : Addr)
  | i
  | word (w : Word)
deriving DecidableEq, Repr

/-- A line `MNEMONIC operand, operand` (R73). -/
structure AsmLine where
  mnemonic : Mnemonic
  operands : List AsmOperand
deriving DecidableEq, Repr

/-- The line that writes a descriptor (R73). -/
def disassemble : Descriptor → AsmLine
  | .unknown w => ⟨.word, [.word w]⟩
  | .instr i =>
    match i with
    | .nop => ⟨.nop, []⟩
    | .ret => ⟨.ret, []⟩
    | .jp nnn => ⟨.jp, [.addr nnn]⟩
    | .call nnn => ⟨.call, [.addr nnn]⟩
    | .seImm x kk => ⟨.se, [.v x, .byte kk]⟩
    | .sneImm x kk => ⟨.sne, [.v x, .byte kk]⟩
    | .seReg x y => ⟨.se, [.v x, .v y]⟩
    | .sneReg x y => ⟨.sne, [.v x, .v y]⟩
    | .ldImm x kk => ⟨.ld, [.v x, .byte kk]⟩
    | .addImm x kk => ⟨.add, [.v x, .byte kk]⟩
    | .ldReg x y => ⟨.ld, [.v x, .v y]⟩
    | .or x y => ⟨.or, [.v x, .v y]⟩
    | .and x y => ⟨.and, [.v x, .v y]⟩
    | .xor x y => ⟨.xor, [.v x, .v y]⟩
    | .addReg x y => ⟨.add, [.v x, .v y]⟩
    | .sub x y => ⟨.sub, [.v x, .v y]⟩
    | .shr x y => ⟨.shr, [.v x, .v y]⟩
    | .subn x y => ⟨.subn, [.v x, .v y]⟩
    | .shl x y => ⟨.shl, [.v x, .v y]⟩
    | .ldI nnn => ⟨.ld, [.i, .addr nnn]⟩
    | .jpV0 nnn => ⟨.jp, [.v 0x0, .addr nnn]⟩
    | .rnd x kk => ⟨.rnd, [.v x, .byte kk]⟩
    | .unimpl00E0 => ⟨.word, [.word (encode i)]⟩
    | .unimplDXYN _ _ _ => ⟨.word, [.word (encode i)]⟩
    | .unimplEX9E _ => ⟨.word, [.word (encode i)]⟩
    | .unimplEXA1 _ => ⟨.word, [.word (encode i)]⟩
    | .unimplFX07 _ => ⟨.word, [.word (encode i)]⟩
    | .unimplFX0A _ => ⟨.word, [.word (encode i)]⟩
    | .unimplFX15 _ => ⟨.word, [.word (encode i)]⟩
    | .unimplFX18 _ => ⟨.word, [.word (encode i)]⟩
    | .unimplFX1E _ => ⟨.word, [.word (encode i)]⟩
    | .unimplFX29 _ => ⟨.word, [.word (encode i)]⟩
    | .unimplFX33 _ => ⟨.word, [.word (encode i)]⟩
    | .unimplFX55 _ => ⟨.word, [.word (encode i)]⟩
    | .unimplFX65 _ => ⟨.word, [.word (encode i)]⟩

/-- The word of a line; none for a line that is no form of R73. Only V0 may stand before the address of `JP`. -/
def assemble (l : AsmLine) : Option Word :=
  match l.mnemonic, l.operands with
  | .nop, [] => some (encode .nop)
  | .ret, [] => some (encode .ret)
  | .jp, [.addr nnn] => some (encode (.jp nnn))
  | .jp, [.v x, .addr nnn] => if x = 0x0 then some (encode (.jpV0 nnn)) else none
  | .call, [.addr nnn] => some (encode (.call nnn))
  | .se, [.v x, .byte kk] => some (encode (.seImm x kk))
  | .se, [.v x, .v y] => some (encode (.seReg x y))
  | .sne, [.v x, .byte kk] => some (encode (.sneImm x kk))
  | .sne, [.v x, .v y] => some (encode (.sneReg x y))
  | .ld, [.v x, .byte kk] => some (encode (.ldImm x kk))
  | .ld, [.v x, .v y] => some (encode (.ldReg x y))
  | .ld, [.i, .addr nnn] => some (encode (.ldI nnn))
  | .add, [.v x, .byte kk] => some (encode (.addImm x kk))
  | .add, [.v x, .v y] => some (encode (.addReg x y))
  | .or, [.v x, .v y] => some (encode (.or x y))
  | .and, [.v x, .v y] => some (encode (.and x y))
  | .xor, [.v x, .v y] => some (encode (.xor x y))
  | .sub, [.v x, .v y] => some (encode (.sub x y))
  | .shr, [.v x, .v y] => some (encode (.shr x y))
  | .subn, [.v x, .v y] => some (encode (.subn x y))
  | .shl, [.v x, .v y] => some (encode (.shl x y))
  | .rnd, [.v x, .byte kk] => some (encode (.rnd x kk))
  | .word, [.word w] => some w
  | _, _ => none

/-- One hexadecimal digit. -/
def hexDigit (n : Nibble) : String :=
  if n = 0x0 then "0" else if n = 0x1 then "1" else if n = 0x2 then "2" else if n = 0x3 then "3"
  else if n = 0x4 then "4" else if n = 0x5 then "5" else if n = 0x6 then "6" else if n = 0x7 then "7"
  else if n = 0x8 then "8" else if n = 0x9 then "9" else if n = 0xA then "A" else if n = 0xB then "B"
  else if n = 0xC then "C" else if n = 0xD then "D" else if n = 0xE then "E" else "F"

/-- A mnemonic's text (R73). -/
def Mnemonic.text : Mnemonic → String
  | .nop => "NOP"
  | .ret => "RET"
  | .jp => "JP"
  | .call => "CALL"
  | .se => "SE"
  | .sne => "SNE"
  | .ld => "LD"
  | .add => "ADD"
  | .or => "OR"
  | .and => "AND"
  | .xor => "XOR"
  | .sub => "SUB"
  | .shr => "SHR"
  | .subn => "SUBN"
  | .shl => "SHL"
  | .rnd => "RND"
  | .word => ".word"

/-- An operand's text (R73); DESIGN CHOICE (notes/assumptions/11.md): every number in hexadecimal. -/
def AsmOperand.text : AsmOperand → String
  | .v x => "V" ++ hexDigit x
  | .byte kk => "0x" ++ hexDigit (kk.extractLsb' 4 4) ++ hexDigit (kk.extractLsb' 0 4)
  | .addr nnn => "0x" ++ hexDigit (nnn.extractLsb' 8 4) ++ hexDigit (nnn.extractLsb' 4 4) ++ hexDigit (nnn.extractLsb' 0 4)
  | .i => "I"
  | .word w => "0x" ++ hexDigit (fieldOp w) ++ hexDigit (fieldX w) ++ hexDigit (fieldY w) ++ hexDigit (fieldN w)

/-- A line's text: the mnemonic, then the operands with a comma and a space between two (R73). -/
def AsmLine.text (l : AsmLine) : String :=
  match l.operands with
  | [] => l.mnemonic.text
  | o :: rest => rest.foldl (fun t p => t ++ ", " ++ p.text) (l.mnemonic.text ++ " " ++ o.text)

end Sys2Proof.Machine
end

