-- ==== Sys2Proof/Machine/Frame.lean ====
section
/-!
DEFINITION. The frame tick (60_exceptions.md R139 to R144): CYCLES_PER_FRAME steps while Running, then the timer
decrement, then the buzzer. The steps are `step`, each one instruction (notes/assumptions/7.md).
-/

namespace Sys2Proof.Machine

/-- `FrameOutcome` (R143). -/
structure FrameOutcome where
  instructionsExecuted : Nat
  buzzerActive : Bool
  diagnostics : List Diagnostic
deriving DecidableEq, Repr

/-- The start of a TICK: an empty diagnostic list (R140) and the random bytes the host supplies (R15). -/
def State.beginTick (s : State) (rand : List Byte) : State := { s with diagnostics := [], rand := rand }

/-- The timer decrement at the end of a Running tick (R141). -/
def State.decrementTimers (s : State) : State := { s with dt := decTimer s.dt, st := decTimer s.st }

/-- The end of a TICK: the list is handed to the outcome and nothing of it survives (R34). DESIGN CHOICE
(notes/assumptions/8.md): random bytes no RND drew are dropped. -/
def State.endTick (s : State) : State := { s with diagnostics := [], rand := [] }

/-- `buzzer_active` of a state whose timers are already decremented (R142). -/
def State.buzzer (s : State) (buzzerExt : Bool) : Bool :=
  if s.cfg.stEqualsBuzzer then decide (s.st.toNat > 0) else buzzerExt

/-- `repeat n times: step(); executed <- executed + 1` (R140). -/
def runSteps : Nat → Nat → State → Host.Outcome (State × Nat) Fault Refusal
  | 0, executed, s => .next (s, executed)
  | n + 1, executed, s =>
    match step s with
    | .next t => runSteps n (executed + 1) t
    | .fault r => .fault r
    | .refused r => .refused r

/-- The outcome and the state a tick leaves, from the state after its steps and decrement. -/
def State.finishTick (s : State) (executed : Nat) (buzzerExt : Bool) : State × FrameOutcome :=
  (s.endTick,
    { instructionsExecuted := executed, buzzerActive := s.buzzer buzzerExt, diagnostics := s.diagnostics })

/-- `TICK(rand, buzzer_ext)` (R140); while Halted it runs no step and does not decrement (R144). -/
def tick (rand : List Byte) (buzzerExt : Bool) (s : State) : Host.Outcome (State × FrameOutcome) Fault Refusal :=
  match s.run with
  | .halted => .next ((s.beginTick rand).finishTick 0 buzzerExt)
  | .running =>
    match runSteps s.cfg.cyclesPerFrame 0 (s.beginTick rand) with
    | .next (t, executed) => .next (t.decrementTimers.finishTick executed buzzerExt)
    | .fault r => .fault r
    | .refused r => .refused r

end Sys2Proof.Machine
end

