-- ==== Sys2Proof/Machine/Session.lean ====
section
/-!
DEFINITION. The block's five transactions (00_scope.md R12 to R17, 70_reset_and_hazards.md R149 to R154), and a session as
the list of transactions the host issues (R153, R161). They never overlap: a list cannot express it (R155).
-/

namespace Sys2Proof.Machine

/-- LOAD_PROGRAM's result (R14). -/
inductive LoadResult where
  | ok
  | outOfSpace
deriving DecidableEq, Repr

/-- Which timer SET_TIMER writes (R16). -/
inductive Timer where
  | delay
  | sound
deriving DecidableEq, Repr

/-- What SNAPSHOT shows (R17). -/
structure Snapshot where
  v : Vector Byte 16
  i : Word
  pc : Word
  sp : Fin 17
  stack : Vector Word 16
  dt : Byte
  st : Byte
  mem : List Byte
  run : RunState
  cfg : SessionConfig
deriving DecidableEq, Repr

/-- `RESET(cfg)` (R13, R149). The model's own counter of free draws is kept, so that no free value is drawn twice
(notes/assumptions/4.md). -/
def State.resetSession (s : State) (cfg : SessionConfig) : State :=
  { State.resetWith cfg with freeDraws := s.freeDraws }

/-- `LOAD_PROGRAM(bytes)` (R14, R151): too long a program writes nothing and halts the core (60_exceptions.md R132). -/
def State.loadProgram (s : State) (bytes : List Byte) : State × LoadResult :=
  if bytes.length > Config.programMax then ({ s with run := .halted }, .outOfSpace)
  else ({ s with mem := Memory.writeBytes s.mem Config.programBase bytes }, .ok)

/-- `SET_TIMER(which, v)` (R16, 10_state.md R29). -/
def State.setTimer (s : State) (which : Timer) (v : Int) : State :=
  match which with
  | .delay => { s with dt := clampByte v }
  | .sound => { s with st := clampByte v }

/-- `SNAPSHOT()`: I as read, every cell of memory, and neither the diagnostics nor an input (R17, R23, R34). -/
def State.snapshot (s : State) : Snapshot where
  v := s.v
  i := s.getI
  pc := s.pc
  sp := s.sp
  stack := s.stack
  dt := s.dt
  st := s.st
  mem := (List.range Config.memSize).map s.readMem
  run := s.run
  cfg := s.cfg

/-- The five transactions (R12). -/
inductive Transaction where
  | reset (cfg : SessionConfig)
  | loadProgram (bytes : List Byte)
  | tick (rand : List Byte) (buzzerExt : Bool)
  | setTimer (which : Timer) (v : Int)
  | snapshot
deriving DecidableEq, Repr

/-- What a transaction gives the host: RESET and SET_TIMER have no output (R13, R16). -/
inductive Response where
  | none
  | loaded (r : LoadResult)
  | frame (o : FrameOutcome)
  | snapshot (shown : Snapshot)
deriving DecidableEq, Repr

/-- One transaction, atomic (R12). -/
def transact (tr : Transaction) (s : State) : Host.Outcome (State × Response) Fault Refusal :=
  match tr with
  | .reset cfg => .next (s.resetSession cfg, .none)
  | .loadProgram bytes => .next ((s.loadProgram bytes).1, .loaded (s.loadProgram bytes).2)
  | .tick rand buzzerExt =>
    match tick rand buzzerExt s with
    | .next (t, o) => .next (t, .frame o)
    | .fault r => .fault r
    | .refused r => .refused r
  | .setTimer which v => .next (s.setTimer which v, .none)
  | .snapshot => .next (s, .snapshot s.snapshot)

/-- A run: the host's transactions one after the other, with their responses in order (R153, R161). -/
def runSession : List Transaction → State → Host.Outcome (State × List Response) Fault Refusal
  | [], s => .next (s, [])
  | tr :: rest, s =>
    match transact tr s with
    | .next (t, r) =>
      match runSession rest t with
      | .next (u, rs) => .next (u, r :: rs)
      | .fault e => .fault e
      | .refused e => .refused e
    | .fault e => .fault e
    | .refused e => .refused e

end Sys2Proof.Machine
end

