-- ==== Sys2Proof/Safety.lean ====
section
/-!
DEFINITION. What a good state is, and what an instruction leaves alone, in the terms the statements use.
-/

namespace Sys2Proof.Machine

/-- A record a step may append: one of the three kinds a step raises, with that kind's code, so never code 0, never
OutOfSpace and never InvalidRegister (60_exceptions.md R126, R127, R133). -/
def Diagnostic.wellFormed (d : Diagnostic) : Bool :=
  d.code == d.kind.code && (d.kind == .unknownOpcode || d.kind == .stackOverflow || d.kind == .stackUnderflow)

/-- The invariant of the core: memory is in canonical form and in the 4096 cells (20_memory.md R45), bits 15:12 of I
are 0 (10_state.md R23), and every record of the tick's list is one a step may append. -/
structure State.Inv (s : State) : Prop where
  memWf : Memory.wf s.mem = true
  indexMasked : s.i &&& 0xF000 = 0
  recordsWf : ∀ d ∈ s.diagnostics, d.wellFormed = true

/-- Between transactions nothing transient is left: no record and no undrawn random byte (10_state.md R34). -/
structure State.Quiescent (s : State) : Prop where
  noRecords : s.diagnostics = []
  noRand : s.rand = []

/-! ## Frames: what is unchanged between two states -/

/-- Every byte of memory reads as before. -/
def KeepsMemory (s t : State) : Prop := ∀ a : Nat, t.readMem a = s.readMem a

/-- Every general register but those listed is unchanged. -/
def KeepsRegistersBut (changed : List Nibble) (s t : State) : Prop := ∀ r : Nibble, r ∉ changed → t.getV r = s.getV r

/-- SP and all 16 entries of the call stack are unchanged. -/
def KeepsStack (s t : State) : Prop := t.sp = s.sp ∧ t.stack = s.stack

/-- Both timers are unchanged. -/
def KeepsTimers (s t : State) : Prop := t.dt = s.dt ∧ t.st = s.st

/-- The latched configuration and the execution state are unchanged. -/
def KeepsSession (s t : State) : Prop := t.cfg = s.cfg ∧ t.run = s.run

/-- The diagnostic list is unchanged: nothing was raised. -/
def KeepsRecords (s t : State) : Prop := t.diagnostics = s.diagnostics

/-- No random byte was drawn. -/
def KeepsDraws (s t : State) : Prop := t.rand = s.rand ∧ t.freeDraws = s.freeDraws

/-- Memory, the stack, the timers, the configuration and the execution state are unchanged. -/
structure KeepsStorage (s t : State) : Prop where
  memory : KeepsMemory s t
  stack : KeepsStack s t
  timers : KeepsTimers s t
  session : KeepsSession s t

/-- The frame of an instruction that only computes into general registers: all but the listed registers, I and PC
included, is unchanged. -/
structure OnlyRegisters (changed : List Nibble) (s t : State) : Prop where
  registers : KeepsRegistersBut changed s t
  index : t.i = s.i
  pc : t.pc = s.pc
  storage : KeepsStorage s t
  records : KeepsRecords s t
  draws : KeepsDraws s t

/-- The frame of an instruction that only transfers control without the stack: all but PC is unchanged. -/
structure OnlyPc (s t : State) : Prop where
  registers : KeepsRegistersBut [] s t
  index : t.i = s.i
  storage : KeepsStorage s t
  records : KeepsRecords s t
  draws : KeepsDraws s t

/-- The frame of a raise: all but the diagnostic list is unchanged (00_scope.md R10, 60_exceptions.md R135). -/
structure OnlyRecords (s t : State) : Prop where
  registers : KeepsRegistersBut [] s t
  index : t.i = s.i
  pc : t.pc = s.pc
  storage : KeepsStorage s t
  draws : KeepsDraws s t

/-! ## What an instruction may write, and what a step raises -/

/-- The general registers an instruction may write: its destination, and VF for the five flag writers
(10_state.md R21, 41_load_alu.md R94). -/
def destinations : Instr → List Nibble
  | .ldImm x _ => [x]
  | .addImm x _ => [x]
  | .ldReg x _ => [x]
  | .or x _ => [x]
  | .and x _ => [x]
  | .xor x _ => [x]
  | .rnd x _ => [x]
  | .addReg x _ => [x, flagIndex]
  | .sub x _ => [x, flagIndex]
  | .shr x _ => [x, flagIndex]
  | .subn x _ => [x, flagIndex]
  | .shl x _ => [x, flagIndex]
  | _ => []

/-- The error a step from a Running state raises, if any: CALL only StackOverflow, RET only StackUnderflow, unknown and
unimplemented words only UnknownOpcode, every other instruction none (60_exceptions.md R134). -/
def State.stepRaises (s : State) : Option ErrorKind :=
  match decode s.fetchWord with
  | .unknown _ => some .unknownOpcode
  | .instr .ret => if s.sp.val = 0 then some .stackUnderflow else none
  | .instr (.call _) => if s.sp.val = 16 then some .stackOverflow else none
  | .instr i => if i.unimplemented then some .unknownOpcode else none

/-! ## Several outcomes together -/

/-- An outcome with its next value mapped. -/
def mapNext {α β : Type} (f : α → β) : Host.Outcome α Fault Refusal → Host.Outcome β Fault Refusal
  | .next a => .next (f a)
  | .fault r => .fault r
  | .refused r => .refused r

/-- The execute phases of several instructions, one after the other. -/
def execAll : List Instr → State → Host.Outcome State Fault Refusal
  | [], s => .next s
  | i :: rest, s =>
    match exec i s with
    | .next t => execAll rest t
    | .fault r => .fault r
    | .refused r => .refused r

/-- `s` with another value of the reserved quirk (43_unimplemented.md R124). -/
def State.withLoadStoreQuirk (s : State) (b : Bool) : State :=
  { s with cfg := { s.cfg with loadStoreAdvancesI := b } }

/-- Whether a transaction is a RESET. -/
def Transaction.isReset : Transaction → Bool
  | .reset _ => true
  | _ => false

end Sys2Proof.Machine
end

