-- ==== Sys2Proof/Certificates/Slice0/Obligations.lean ====
section
/-!
DEFINITION. The statements for the provers. In a statement about `exec`, `s` is the state of the execute phase: PC already
holds the address after the instruction, so `s.pc - 2` is the spec's `pc0` (30_encoding.md R75, notes/assumptions/6.md).
-/

open Sys2Proof Sys2Proof.Machine

/-! ## Decoding and encoding (30_encoding.md) -/

/-- R70: some words written out from its encodings decode to the instructions they stand for. That the five words beside
them are Unknown is R71 with the spec's own decisions D7 (0x0123) and D8 (0x5121, 0x8AB8, 0xE19F, 0xFFFF), followed as
notes/assumptions/9.md says. -/
def Obligations.KnownWordsDecode : Prop :=
  decode 0x0000 = .instr .nop ∧ decode 0x00EE = .instr .ret ∧ decode 0x00E0 = .instr .unimpl00E0 ∧
  decode 0x1ABC = .instr (.jp 0xABC) ∧ decode 0x2F00 = .instr (.call 0xF00) ∧
  decode 0x3A7F = .instr (.seImm 0xA 0x7F) ∧ decode 0x5120 = .instr (.seReg 0x1 0x2) ∧
  decode 0x7EFF = .instr (.addImm 0xE 0xFF) ∧ decode 0x8AB6 = .instr (.shr 0xA 0xB) ∧
  decode 0x8ABE = .instr (.shl 0xA 0xB) ∧ decode 0xB123 = .instr (.jpV0 0x123) ∧
  decode 0xC3FF = .instr (.rnd 0x3 0xFF) ∧ decode 0xD125 = .instr (.unimplDXYN 0x1 0x2 0x5) ∧
  decode 0xF165 = .instr (.unimplFX65 0x1) ∧ decode 0x5121 = .unknown 0x5121 ∧ decode 0x0123 = .unknown 0x0123 ∧
  decode 0x8AB8 = .unknown 0x8AB8 ∧ decode 0xE19F = .unknown 0xE19F ∧ decode 0xFFFF = .unknown 0xFFFF

/-- R68, which the spec marks as derived from R63 and R67: the encoder is the inverse of the decoder on every well-formed
descriptor, every operand at every value, and no bit of any word is dropped. -/
def Obligations.DecodeAndEncodeAreInverse : Prop :=
  (∀ d : Descriptor, d.wellFormed = true → decode (encodeDescriptor d) = d) ∧
  (∀ w : Word, encodeDescriptor (decode w) = w) ∧
  (∀ w : Word, encodeDescriptor (.unknown w) = w)

/-- R67, R70: every word decodes to the instruction of the one row of the opcode map that selects it, and to Unknown of
itself exactly when no row does; no word lies in two rows. -/
def Obligations.OpcodeMapSelectsOneInstruction : Prop :=
  ∀ w : Word,
    (∀ i, decode w = .instr i → i.row ∈ opcodeMap ∧ i.row.selects w = true) ∧
    (decode w = .unknown w ↔ ∀ r ∈ opcodeMap, r.selects w = false) ∧
    (∀ w', decode w = .unknown w' → w' = w) ∧
    (∀ r ∈ opcodeMap, ∀ r' ∈ opcodeMap, r.selects w = true → r'.selects w = true → r = r')

/-- R71 (its decisions D7 and D8): the decoder answers Unknown on exactly the six groups of the unknown space, which
WellFormed.lean writes out by masks. -/
def Obligations.UnknownSpaceIsTheSixGroups : Prop :=
  ∀ w : Word, decode w = .unknown w ↔ inUnknownSpace w = true

/-- R73, R74 (decision D29): every statement of the spec's assembler notation is one word: assembling the line that
writes a descriptor gives that descriptor's word. -/
def Obligations.AssemblingALineGivesItsWord : Prop :=
  ∀ d : Descriptor, assemble (disassemble d) = some (encodeDescriptor d)

/-! ## The step (30_encoding.md R75, R76) -/

/-- R75: while Running, when the two bytes at PC (each address masked, high byte first) decode to an instruction, a step
is the execute phase of that instruction on the state whose only change is PC advanced by 2. -/
def Obligations.StepRunsDecodedInstruction : Prop :=
  ∀ (s : State) (i : Instr), s.run = .running →
    decode (s.readMem s.pc.toNat ++ s.readMem (s.pc.toNat + 1)) = .instr i →
    step s = exec i { s with pc := s.pc + 2 }

/-- R123, R131: while Running, when those bytes decode to no instruction, a step answers the state with PC advanced by 2
and one UnknownOpcode record (code 1) of that address and word, and nothing else changed. -/
def Obligations.StepReportsUnknownWord : Prop :=
  ∀ (s : State) (w : Word), s.run = .running →
    decode (s.readMem s.pc.toNat ++ s.readMem (s.pc.toNat + 1)) = .unknown w →
    step s = .next { s with
      pc := s.pc + 2
      diagnostics := s.diagnostics ++ [{ code := 1, kind := .unknownOpcode, pc := s.pc, word := w }] }

/-- R50 with decision D6: the fetched word is big-endian and each of its two byte addresses is masked on its own, also at
0xFFF and past it. -/
def Obligations.FetchIsBigEndianAndWraps : Prop :=
  ∀ s : State,
    s.fetchWord.toNat = 256 * (s.readMem (s.pc.toNat % 4096)).toNat + (s.readMem ((s.pc.toNat + 1) % 4096)).toNat

/-- The model's reading of R139, R144 and R148 (notes/assumptions/5.md): asked to step while Halted, the core answers the
state it is in. -/
def Obligations.HaltedStepChangesNothing : Prop :=
  ∀ s : State, s.run = .halted → step s = .next s

/-- R128, R139: every step from a Running state answers a next state, and none enters Halted. That a step from a Halted
state answers a next state too, which is Halted, is the model's reading (notes/assumptions/5.md). -/
def Obligations.EveryStepCompletes : Prop :=
  ∀ s : State, ∃ t, step s = .next t ∧ t.run = s.run

/-- R37, R55, R158: no step writes a byte of memory, a timer or the configuration. -/
def Obligations.NoStepWritesMemoryTimersOrConfig : Prop :=
  ∀ s t : State, step s = .next t → KeepsMemory s t ∧ KeepsTimers s t ∧ t.cfg = s.cfg

/-- R76: where PC stands after a step from a Running state, for every descriptor; only jumps, calls, returns and skips
that are taken leave the sequential address. -/
def Obligations.StepMovesPcByTheTable : Prop :=
  ∀ s t : State, s.run = .running → step s = .next t →
    t.pc = match decode s.fetchWord with
      | .instr (.jp nnn) => BitVec.ofNat 16 nnn.toNat
      | .instr (.call nnn) => if s.sp.val = 16 then s.pc + 2 else BitVec.ofNat 16 nnn.toNat
      | .instr .ret => if h : s.sp.val = 0 then s.pc + 2 else s.stack[s.sp.val - 1]
      | .instr (.jpV0 nnn) => BitVec.ofNat 16 ((nnn.toNat + (s.getV 0x0).toNat) % 4096)
      | .instr (.seImm x kk) => if s.getV x = kk then s.pc + 4 else s.pc + 2
      | .instr (.sneImm x kk) => if s.getV x = kk then s.pc + 2 else s.pc + 4
      | .instr (.seReg x y) => if s.getV x = s.getV y then s.pc + 4 else s.pc + 2
      | .instr (.sneReg x y) => if s.getV x = s.getV y then s.pc + 2 else s.pc + 4
      | _ => s.pc + 2

/-- R127, R134, R135: a step raises at most one error, of the kind R134 gives its word; the record names the address the
word was fetched from and the word; and the state is then the one before the instruction but for PC and that record. -/
def Obligations.RaisingStepIsPrecise : Prop :=
  ∀ s t : State, s.run = .running → step s = .next t →
    match s.stepRaises with
    | none => t.diagnostics = s.diagnostics
    | some k => t = { s with
        pc := s.pc + 2
        diagnostics := s.diagnostics ++ [{ code := k.code, kind := k, pc := s.pc, word := s.fetchWord }] }

/-- R55: a step reads no byte of memory but the two it fetches: with any other memory that agrees on these two, it does
the same and leaves that memory. -/
def Obligations.StepReadsOnlyTheFetchedBytes : Prop :=
  ∀ (s : State) (m : Memory),
    Memory.read m s.pc.toNat = s.readMem s.pc.toNat → Memory.read m (s.pc.toNat + 1) = s.readMem (s.pc.toNat + 1) →
    step { s with mem := m } = mapNext (fun t => { t with mem := m }) (step s)

/-! ## Control flow (40_control.md) -/

/-- R85: NOP is the exact word 0x0000; its execute phase changes nothing, and a Running core whose next word is 0x0000
moves PC by 2 and nothing else. -/
def Obligations.NopOnlyAdvancesPc : Prop :=
  Instr.nop.row = ⟨0x0000, 0xFFFF⟩ ∧ (∀ s : State, exec .nop s = .next s) ∧
  (∀ s : State, s.run = .running → s.fetchWord = 0x0000 → step s = .next { s with pc := s.pc + 2 })

/-- R87: JP, the row 1NNN, puts its 12-bit address, zero-extended, in PC and changes nothing else. -/
def Obligations.JumpLoadsPc : Prop :=
  ∀ (nnn : Addr) (s : State), (Instr.jp nnn).row = ⟨0x1000, 0xF000⟩ ∧
    ∃ t, exec (.jp nnn) s = .next t ∧ t.pc.toNat = nnn.toNat ∧ OnlyPc s t

/-- R89 to R92: each skip, of the row given, adds 2 to the advanced PC exactly when its comparison holds, and changes
nothing else. -/
def Obligations.SkipsAdvancePcOnTheirComparison : Prop :=
  ∀ (x y : Nibble) (kk : Byte) (s : State),
    ((Instr.seImm x kk).row = ⟨0x3000, 0xF000⟩ ∧
      ∃ t, exec (.seImm x kk) s = .next t ∧ (t.pc = if s.getV x = kk then s.pc + 2 else s.pc) ∧ OnlyPc s t) ∧
    ((Instr.sneImm x kk).row = ⟨0x4000, 0xF000⟩ ∧
      ∃ t, exec (.sneImm x kk) s = .next t ∧ (t.pc = if s.getV x ≠ kk then s.pc + 2 else s.pc) ∧ OnlyPc s t) ∧
    ((Instr.seReg x y).row = ⟨0x5000, 0xF00F⟩ ∧
      ∃ t, exec (.seReg x y) s = .next t ∧ (t.pc = if s.getV x = s.getV y then s.pc + 2 else s.pc) ∧ OnlyPc s t) ∧
    ((Instr.sneReg x y).row = ⟨0x9000, 0xF00F⟩ ∧
      ∃ t, exec (.sneReg x y) s = .next t ∧ (t.pc = if s.getV x ≠ s.getV y then s.pc + 2 else s.pc) ∧ OnlyPc s t)

/-- R88, R26: CALL with room on the stack pushes the advanced PC, unmasked, jumps, and changes nothing else. -/
def Obligations.CallPushesReturnAddress : Prop :=
  ∀ (nnn : Addr) (s : State), s.sp.val < 16 →
    ∃ t, exec (.call nnn) s = .next t ∧ t.pc.toNat = nnn.toNat ∧ t.sp.val = s.sp.val + 1 ∧
      (∀ (k : Nat) (hk : k < 16), t.stack[k] = if k = s.sp.val then s.pc else s.stack[k]) ∧
      KeepsRegistersBut [] s t ∧ t.i = s.i ∧ KeepsMemory s t ∧ KeepsTimers s t ∧ KeepsSession s t ∧
      KeepsRecords s t ∧ KeepsDraws s t

/-- R129 (decision D11): CALL on a full stack appends a StackOverflow record (code 2) of its address and word, and
changes nothing else. -/
def Obligations.CallOnFullStackReports : Prop :=
  ∀ (nnn : Addr) (s : State), s.sp.val = 16 →
    ∃ t, exec (.call nnn) s = .next t ∧ OnlyRecords s t ∧
      t.diagnostics = s.diagnostics ++
        [{ code := 2, kind := .stackOverflow, pc := s.pc - 2, word := BitVec.ofNat 16 (0x2000 + nnn.toNat) }]

/-- R86, R26 (decision D24: the entry is not cleared): RET on a stack that is not empty takes the entry below SP as PC,
unmasked, and changes nothing else but SP. -/
def Obligations.RetPopsReturnAddress : Prop :=
  ∀ (s : State) (h : 0 < s.sp.val),
    ∃ t, exec .ret s = .next t ∧ t.pc = s.stack[s.sp.val - 1] ∧ t.sp.val = s.sp.val - 1 ∧
      t.stack = s.stack ∧ KeepsRegistersBut [] s t ∧ t.i = s.i ∧ KeepsMemory s t ∧ KeepsTimers s t ∧
      KeepsSession s t ∧ KeepsRecords s t ∧ KeepsDraws s t

/-- R130 (decision D11): RET on an empty stack appends a StackUnderflow record (code 3) of its address and of its word
0x00EE, and changes nothing else. -/
def Obligations.RetOnEmptyStackReports : Prop :=
  ∀ s : State, s.sp.val = 0 →
    ∃ t, exec .ret s = .next t ∧ OnlyRecords s t ∧
      t.diagnostics = s.diagnostics ++ [{ code := 3, kind := .stackUnderflow, pc := s.pc - 2, word := 0x00EE }]

/-- The property of R88's corner cases and of E4: calls nested to any depth the stack has room for, followed by as many
returns, bring PC and SP back, raise nothing, and leave every register, every byte of memory and every stack entry below
the first call as they were. -/
def Obligations.NestedCallsReturnInOrder : Prop :=
  ∀ (targets : List Addr) (s : State), s.sp.val + targets.length ≤ 16 →
    ∃ t, execAll (targets.map .call ++ List.replicate targets.length .ret) s = .next t ∧
      t.pc = s.pc ∧ t.sp = s.sp ∧ (∀ (k : Nat) (hk : k < s.sp.val), t.stack[k] = s.stack[k]) ∧
      KeepsRegistersBut [] s t ∧ t.i = s.i ∧ KeepsMemory s t ∧ KeepsTimers s t ∧ KeepsSession s t ∧ KeepsRecords s t

/-! ## Loads and arithmetic (41_load_alu.md) -/

/-- R95, R97: LD, of the rows 6XKK and 8XY0, puts its literal, or a copy of V[Y], in V[X], VF included, and changes
nothing else. -/
def Obligations.LoadsSetTheDestination : Prop :=
  ∀ (x y : Nibble) (kk : Byte) (s : State),
    ((Instr.ldImm x kk).row = ⟨0x6000, 0xF000⟩ ∧
      ∃ t, exec (.ldImm x kk) s = .next t ∧ t.getV x = kk ∧ OnlyRegisters [x] s t) ∧
    ((Instr.ldReg x y).row = ⟨0x8000, 0xF00F⟩ ∧
      ∃ t, exec (.ldReg x y) s = .next t ∧ t.getV x = s.getV y ∧ OnlyRegisters [x] s t)

/-- R96: ADD with a literal, the row 7XKK, adds modulo 256 and changes nothing else; VF changes only as
the destination. -/
def Obligations.AddImmediateWrapsWithoutFlag : Prop :=
  ∀ (x : Nibble) (kk : Byte) (s : State), (Instr.addImm x kk).row = ⟨0x7000, 0xF000⟩ ∧
    ∃ t, exec (.addImm x kk) s = .next t ∧ (t.getV x).toNat = ((s.getV x).toNat + kk.toNat) % 256 ∧
      OnlyRegisters [x] s t

/-- R98 to R100: OR, AND and XOR work bit by bit into V[X] and change nothing else; that VF changes only as the
destination is the spec's decision D10. -/
def Obligations.LogicWorksBitByBit : Prop :=
  ∀ (x y : Nibble) (s : State),
    (∃ t, exec (.or x y) s = .next t ∧ OnlyRegisters [x] s t ∧
      ∀ (k : Nat) (hk : k < 8), (t.getV x)[k] = ((s.getV x)[k] || (s.getV y)[k])) ∧
    (∃ t, exec (.and x y) s = .next t ∧ OnlyRegisters [x] s t ∧
      ∀ (k : Nat) (hk : k < 8), (t.getV x)[k] = ((s.getV x)[k] && (s.getV y)[k])) ∧
    (∃ t, exec (.xor x y) s = .next t ∧ OnlyRegisters [x] s t ∧
      ∀ (k : Nat) (hk : k < 8), (t.getV x)[k] = ((s.getV x)[k] ^^ (s.getV y)[k]))

/-- R101 (its X = F clause is the spec's decision D9): ADD leaves the sum modulo 256 in V[X] and the carry in VF, the
flag alone when X is F, and changes nothing else. -/
def Obligations.AddSetsSumAndCarry : Prop :=
  ∀ (x y : Nibble) (s : State),
    ∃ t, exec (.addReg x y) s = .next t ∧ OnlyRegisters [x, 0xF] s t ∧
      t.getV 0xF = (if (s.getV x).toNat + (s.getV y).toNat > 255 then 1 else 0) ∧
      (x ≠ 0xF → (t.getV x).toNat = ((s.getV x).toNat + (s.getV y).toNat) % 256)

/-- R102 (its X = F clause is the spec's decision D9): SUB leaves V[X] - V[Y] modulo 256 in V[X] and not-borrow in VF,
equality being no borrow, and changes nothing else. -/
def Obligations.SubSetsDifferenceAndNotBorrow : Prop :=
  ∀ (x y : Nibble) (s : State),
    ∃ t, exec (.sub x y) s = .next t ∧ OnlyRegisters [x, 0xF] s t ∧
      t.getV 0xF = (if (s.getV x).toNat ≥ (s.getV y).toNat then 1 else 0) ∧
      (x ≠ 0xF → ((t.getV x).toNat : Int) = ((s.getV x).toNat - (s.getV y).toNat : Int) % 256)

/-- R104 (its X = F clause is the spec's decision D9): SUBN leaves V[Y] - V[X] modulo 256 in V[X] and not-borrow in VF,
and changes nothing else. -/
def Obligations.SubnSetsReverseDifferenceAndNotBorrow : Prop :=
  ∀ (x y : Nibble) (s : State),
    ∃ t, exec (.subn x y) s = .next t ∧ OnlyRegisters [x, 0xF] s t ∧
      t.getV 0xF = (if (s.getV y).toNat ≥ (s.getV x).toNat then 1 else 0) ∧
      (x ≠ 0xF → ((t.getV x).toNat : Int) = ((s.getV y).toNat - (s.getV x).toNat : Int) % 256)

/-- R103 (its X = F clause is the spec's decision D9): SHR halves the source the quirk selects into V[X], leaves the bit
shifted out in VF, and changes nothing else. -/
def Obligations.ShrHalvesTheSelectedSource : Prop :=
  ∀ (x y : Nibble) (s : State),
    ∃ t, exec (.shr x y) s = .next t ∧ OnlyRegisters [x, 0xF] s t ∧
      (t.getV 0xF).toNat = (s.getV (if s.cfg.shiftSourceVy then y else x)).toNat % 2 ∧
      (x ≠ 0xF → (t.getV x).toNat = (s.getV (if s.cfg.shiftSourceVy then y else x)).toNat / 2)

/-- R105 (its X = F clause is the spec's decision D9): SHL doubles the source the quirk selects modulo 256 into V[X],
leaves the bit shifted out in VF, and changes nothing else. -/
def Obligations.ShlDoublesTheSelectedSource : Prop :=
  ∀ (x y : Nibble) (s : State),
    ∃ t, exec (.shl x y) s = .next t ∧ OnlyRegisters [x, 0xF] s t ∧
      (t.getV 0xF).toNat = (s.getV (if s.cfg.shiftSourceVy then y else x)).toNat / 128 ∧
      (x ≠ 0xF → (t.getV x).toNat = 2 * (s.getV (if s.cfg.shiftSourceVy then y else x)).toNat % 256)

/-- R103, R105 and E3: with the shift quirk set a shift does not depend on V[X], and with it clear it does not depend on
V[Y], whose value it then leaves alone unless Y is VF. -/
def Obligations.ShiftIgnoresTheOtherRegister : Prop :=
  ∀ (i : Instr) (x y : Nibble) (b : Byte) (s : State), (i = .shr x y ∨ i = .shl x y) → x ≠ y →
    (s.cfg.shiftSourceVy = true → exec i (s.setV x b) = exec i s) ∧
    (s.cfg.shiftSourceVy = false →
      exec i (s.setV y b) = mapNext (fun t => if y = 0xF then t else t.setV y b) (exec i s))

/-! ## Index, indexed jump, random (42_index_jump_random.md) -/

/-- R106: LD I, the row ANNN, puts its 12-bit address in I, as stored and as read, and changes nothing else. -/
def Obligations.LoadIndexSetsI : Prop :=
  ∀ (nnn : Addr) (s : State), (Instr.ldI nnn).row = ⟨0xA000, 0xF000⟩ ∧
    ∃ t, exec (.ldI nnn) s = .next t ∧ t.i.toNat = nnn.toNat ∧ t.getI.toNat = nnn.toNat ∧
      KeepsRegistersBut [] s t ∧ t.pc = s.pc ∧ KeepsStorage s t ∧ KeepsRecords s t ∧ KeepsDraws s t

/-- R107: JP V0, the row BNNN, puts (NNN + V0) modulo 4096 in PC, whatever bits 11:8 of the word, and
changes nothing else. -/
def Obligations.IndexedJumpWrapsAt4096 : Prop :=
  ∀ (nnn : Addr) (s : State), (Instr.jpV0 nnn).row = ⟨0xB000, 0xF000⟩ ∧
    ∃ t, exec (.jpV0 nnn) s = .next t ∧ t.pc.toNat = (nnn.toNat + (s.getV 0x0).toNat) % 4096 ∧ OnlyPc s t

/-- R108 (decision D23; notes/assumptions/3.md where no byte is supplied): RND takes one byte, the next supplied one if
there is one and a free value otherwise, leaves it masked by KK in V[X], so never above KK, and changes nothing else. -/
def Obligations.RandomMasksOneDrawnByte : Prop :=
  ∀ (x : Nibble) (kk : Byte) (s : State),
    ∃ (r : Byte) (t : State), exec (.rnd x kk) s = .next t ∧ t.getV x = r &&& kk ∧ (t.getV x).toNat ≤ kk.toNat ∧
      (∀ (b : Byte) (rest : List Byte), s.rand = b :: rest → r = b ∧ t.rand = rest ∧ t.freeDraws = s.freeDraws) ∧
      (s.rand = [] → t.rand = [] ∧ t.freeDraws = s.freeDraws + 1) ∧
      KeepsRegistersBut [x] s t ∧ t.i = s.i ∧ t.pc = s.pc ∧ KeepsStorage s t ∧ KeepsRecords s t

/-! ## Unimplemented opcodes (43_unimplemented.md) -/

/-- R109 to R122 (decision D12): each of the 13 recognised, unimplemented opcodes appends one UnknownOpcode record
(code 1) of its address and word, and changes nothing else: no register, no VF, no I, no timer, no memory, no stack. -/
def Obligations.UnimplementedOpcodesOnlyReport : Prop :=
  ∀ (x y n : Nibble) (s : State),
    ∀ i ∈ ([.unimpl00E0, .unimplDXYN x y n, .unimplEX9E x, .unimplEXA1 x, .unimplFX07 x, .unimplFX0A x, .unimplFX15 x,
        .unimplFX18 x, .unimplFX1E x, .unimplFX29 x, .unimplFX33 x, .unimplFX55 x, .unimplFX65 x] : List Instr),
      ∃ t, exec i s = .next t ∧ OnlyRecords s t ∧
        t.diagnostics = s.diagnostics ++
          [{ code := 1, kind := .unknownOpcode, pc := s.pc - 2, word := encode i }]

/-- R124: the reserved quirk has no effect on any state or output: a tick with another value of it does the same. -/
def Obligations.LoadStoreQuirkHasNoEffect : Prop :=
  ∀ (rand : List Byte) (buzzerExt b : Bool) (s : State),
    tick rand buzzerExt (s.withLoadStoreQuirk b) =
      mapNext (fun p => (p.1.withLoadStoreQuirk b, p.2)) (tick rand buzzerExt s)

/-! ## What only some instructions write (10_state.md) -/

/-- R21, R94: over the whole instruction set, a general register other than an instruction's destinations keeps its
value; VF changes only as the destination or as the flag of the five flag writers. -/
def Obligations.RegistersChangeOnlyAsDestinations : Prop :=
  ∀ (i : Instr) (s t : State), exec i s = .next t → KeepsRegistersBut (destinations i) s t

/-- R23, R26: over the whole instruction set, only LD I writes I, only CALL writes a stack entry, only CALL and RET move
SP, only RND draws, and no instruction writes memory, a timer, the configuration or the execution state. -/
def Obligations.OnlyNamedInstructionsWriteSpecialState : Prop :=
  ∀ (i : Instr) (s t : State), exec i s = .next t →
    ((∀ nnn, i ≠ .ldI nnn) → t.i = s.i) ∧
    ((∀ nnn, i ≠ .call nnn) → t.stack = s.stack) ∧
    ((∀ nnn, i ≠ .call nnn) → i ≠ .ret → t.sp = s.sp) ∧
    ((∀ x kk, i ≠ .rnd x kk) → KeepsDraws s t) ∧
    KeepsMemory s t ∧ KeepsTimers s t ∧ KeepsSession s t

/-! ## Invariants -/

/-- R36: the state after RESET, whatever the configuration, meets the invariant and has nothing transient left. -/
def Obligations.ResetMeetsInvariant : Prop :=
  ∀ cfg : SessionConfig, (State.resetWith cfg).Inv ∧ (State.resetWith cfg).Quiescent

/-- R23, R45, R127: from every state that meets it, a step keeps the invariant: memory in canonical form within its 4096
cells, I's bits 15:12 zero, every record of a kind and code a step may report. -/
def Obligations.StepKeepsInvariant : Prop :=
  ∀ s t : State, s.Inv → step s = .next t → t.Inv

/-- The same for the block's transactions, each of which completes (R12); and after a RESET or a TICK nothing transient is
left, and no other transaction leaves any where there was none. Of this, that no record is left is R34; that no random
byte is left after a TICK is the model's choice (notes/assumptions/8.md). -/
def Obligations.EveryTransactionKeepsInvariant : Prop :=
  ∀ (tr : Transaction) (s : State), s.Inv →
    ∃ t r, transact tr s = .next (t, r) ∧ t.Inv ∧ (s.Quiescent → t.Quiescent) ∧
      (∀ cfg, tr = .reset cfg → t.Quiescent) ∧ (∀ rand ext, tr = .tick rand ext → t.Quiescent)

/-! ## Reset, load, timers, snapshot (70_reset_and_hazards.md, 00_scope.md) -/

/-- R36, R149: what RESET leaves from any state: memory zero everywhere and PC 0x200, which the source states; V, I, SP,
the stack and the timers zero and Running, which are the spec's decision D3; and the configuration given. -/
def Obligations.ResetSetsEveryField : Prop :=
  ∀ (cfg : SessionConfig) (s : State),
    ∃ t, transact (.reset cfg) s = .next (t, .none) ∧
      (∀ a, t.readMem a = 0) ∧ t.pc = 0x200 ∧ (∀ r, t.getV r = 0) ∧ t.getI = 0 ∧ t.sp.val = 0 ∧
      (∀ (k : Nat) (hk : k < 16), t.stack[k] = 0) ∧ t.dt = 0 ∧ t.st = 0 ∧ t.run = .running ∧ t.cfg = cfg

/-- R151, R152: a program of at most 3584 bytes loads: byte k is at 0x200 + k, every other cell keeps its byte, and no
register, timer, stack entry or execution state changes, also while Halted. -/
def Obligations.LoadProgramCopiesItsBytes : Prop :=
  ∀ (bytes : List Byte) (s : State), Memory.wf s.mem = true → bytes.length ≤ 3584 →
    ∃ t, transact (.loadProgram bytes) s = .next (t, .loaded .ok) ∧
      (∀ (k : Nat) (hk : k < bytes.length), t.readMem (0x200 + k) = bytes[k]) ∧
      (∀ a, a < 4096 → (a < 0x200 ∨ 0x200 + bytes.length ≤ a) → t.readMem a = s.readMem a) ∧
      KeepsRegistersBut [] s t ∧ t.i = s.i ∧ t.pc = s.pc ∧ KeepsStack s t ∧ KeepsTimers s t ∧ KeepsSession s t ∧
      KeepsRecords s t ∧ KeepsDraws s t

/-- R132 (decision D19): a longer program is refused with OutOfSpace: the core is Halted and nothing else changes, not
one byte of memory. -/
def Obligations.OversizedProgramHalts : Prop :=
  ∀ (bytes : List Byte) (s : State), 3584 < bytes.length →
    transact (.loadProgram bytes) s = .next ({ s with run := .halted }, .loaded .outOfSpace)

/-- R29 (decision D22): SET_TIMER writes the timer it names with the integer clamped to 0..255, and nothing else. -/
def Obligations.SetTimerClamps : Prop :=
  ∀ (v : Int) (s : State),
    (∃ t, transact (.setTimer .delay v) s = .next (t, .none) ∧ (t.dt.toNat : Int) = min (max v 0) 255 ∧
      t = { s with dt := t.dt }) ∧
    (∃ t, transact (.setTimer .sound v) s = .next (t, .none) ∧ (t.st.toNat : Int) = min (max v 0) 255 ∧
      t = { s with st := t.st })

/-- R17 (decision D34): SNAPSHOT shows every register, all 4096 cells, the execution state and the configuration, I
masked to 12 bits, and changes nothing. -/
def Obligations.SnapshotShowsTheStateUnchanged : Prop :=
  ∀ s : State, ∃ shown : Snapshot, transact .snapshot s = .next (s, .snapshot shown) ∧
    shown.mem.length = 4096 ∧ (∀ a, a < 4096 → shown.mem[a]? = some (s.readMem a)) ∧
    shown.v = s.v ∧ shown.i.toNat = s.i.toNat % 4096 ∧ shown.pc = s.pc ∧ shown.sp = s.sp ∧ shown.stack = s.stack ∧
    shown.dt = s.dt ∧ shown.st = s.st ∧ shown.run = s.run ∧ shown.cfg = s.cfg

/-! ## The frame tick (60_exceptions.md) -/

/-- R140, R142, R143: a Running tick is CYCLES_PER_FRAME steps of the machine from an empty list, then one decrement of
each timer, held at 0; its outcome counts every step, carries the list, and takes the buzzer from the decremented sound
timer or, with the quirk clear, from the host. That no random byte is left after the tick is the model's choice
(notes/assumptions/8.md). -/
def Obligations.RunningTickRunsItsBudget : Prop :=
  ∀ (rand : List Byte) (buzzerExt : Bool) (s : State), s.run = .running →
    ∃ (u t : State) (o : FrameOutcome),
      Host.Core.run Sys2Proof.core s.cfg.cyclesPerFrame (s.beginTick rand) = .next u ∧
      tick rand buzzerExt s = .next (t, o) ∧
      t = { u with dt := t.dt, st := t.st, diagnostics := [], rand := [] } ∧
      t.dt.toNat = u.dt.toNat - 1 ∧ t.st.toNat = u.st.toNat - 1 ∧
      o.instructionsExecuted = s.cfg.cyclesPerFrame ∧ o.diagnostics = u.diagnostics ∧
      o.buzzerActive = (if s.cfg.stEqualsBuzzer then decide (t.st.toNat > 0) else buzzerExt)

/-- R144 (decision D18): a tick while Halted, with nothing transient left over, changes nothing, runs no step and reports
nothing; its buzzer comes from the unchanged sound timer or from the host. That the random bytes supplied with it are
gone afterwards is the model's choice (notes/assumptions/8.md). -/
def Obligations.HaltedTickRunsNothing : Prop :=
  ∀ (rand : List Byte) (buzzerExt : Bool) (s : State), s.run = .halted → s.Quiescent →
    tick rand buzzerExt s = .next (s,
      { instructionsExecuted := 0
        buzzerActive := if s.cfg.stEqualsBuzzer then decide (s.st.toNat > 0) else buzzerExt
        diagnostics := [] })

/-- R142, its corner case: the decrement comes first, so with the quirk set a Running tick sounds the buzzer exactly when
the sound timer was above 1 before it, whatever the program. -/
def Obligations.BuzzerFollowsTheDecrement : Prop :=
  ∀ (rand : List Byte) (buzzerExt : Bool) (s : State), s.run = .running → s.cfg.stEqualsBuzzer = true →
    ∃ t o, tick rand buzzerExt s = .next (t, o) ∧ (o.buzzerActive = true ↔ 1 < s.st.toNat)

/-- R141: over any number of Running ticks, whatever program runs and whatever the host supplies, each timer loses one a
tick until it is 0 and stays there. -/
def Obligations.TimersCountDownToZero : Prop :=
  ∀ (inputs : List (List Byte × Bool)) (s : State), s.run = .running →
    ∃ t rs, runSession (inputs.map fun p => .tick p.1 p.2) s = .next (t, rs) ∧
      t.dt.toNat = s.dt.toNat - inputs.length ∧ t.st.toNat = s.st.toNat - inputs.length ∧ t.run = .running

/-- R127, R134: a tick reports at most one record for each of its steps, each with the code of its kind and of a kind a
step raises. -/
def Obligations.TickReportsAtMostOnePerStep : Prop :=
  ∀ (rand : List Byte) (buzzerExt : Bool) (s : State),
    ∃ t o, tick rand buzzerExt s = .next (t, o) ∧ o.diagnostics.length ≤ o.instructionsExecuted ∧
      ∀ d ∈ o.diagnostics, d.wellFormed = true

/-- R155, R108: when the host supplies a byte for every step of the frame, no RND of the tick takes a free value
(notes/assumptions/3.md). -/
def Obligations.SuppliedBytesCoverTheTick : Prop :=
  ∀ (rand : List Byte) (buzzerExt : Bool) (s : State), s.cfg.cyclesPerFrame ≤ rand.length →
    ∃ t o, tick rand buzzerExt s = .next (t, o) ∧ t.freeDraws = s.freeDraws

/-! ## Sessions (60_exceptions.md R139, 70_reset_and_hazards.md R150, R153) -/

/-- R12, R128: every session, whatever its transactions, runs to its end, with one response for each transaction. -/
def Obligations.EverySessionCompletes : Prop :=
  ∀ (trs : List Transaction) (s : State), ∃ t rs, runSession trs s = .next (t, rs) ∧ rs.length = trs.length

/-- R139, R148 (decisions D18, D20): without a RESET a Halted core stays Halted: no transaction changes its registers,
PC, I, SP, stack or configuration. -/
def Obligations.OnlyResetLeavesHalted : Prop :=
  ∀ (trs : List Transaction) (s : State), s.run = .halted → (∀ tr ∈ trs, tr.isReset = false) →
    ∃ t rs, runSession trs s = .next (t, rs) ∧ t.run = .halted ∧ KeepsRegistersBut [] s t ∧ t.pc = s.pc ∧ t.i = s.i ∧
      KeepsStack s t ∧ t.cfg = s.cfg

/-- R150 (decision D37): no transaction but RESET changes the configuration. -/
def Obligations.OnlyResetChangesConfig : Prop :=
  ∀ (trs : List Transaction) (s : State), (∀ tr ∈ trs, tr.isReset = false) →
    ∃ t rs, runSession trs s = .next (t, rs) ∧ t.cfg = s.cfg
end

