-- ==== Sys2Proof/Laws/Decode.lean ====
section
/-!
SUPPORT. The fields of packed words, and a word from its fields: what the proofs about decoding and encoding cite
instead of unfolding bit slices (30_encoding.md R63, R68).
-/

namespace Sys2Proof

variable (op x y n : Nibble) (kk : Byte) (nnn : Addr) (w : Word)

/-! ## A packed word's fields -/

@[simp] theorem fieldOp_packNibbles : fieldOp (packNibbles op x y n) = op := by
  unfold fieldOp packNibbles; ext k hk; simp; grind
@[simp] theorem fieldX_packNibbles : fieldX (packNibbles op x y n) = x := by
  unfold fieldX packNibbles; ext k hk; simp; grind
@[simp] theorem fieldY_packNibbles : fieldY (packNibbles op x y n) = y := by
  unfold fieldY packNibbles; ext k hk; simp; grind
@[simp] theorem fieldN_packNibbles : fieldN (packNibbles op x y n) = n := by
  unfold fieldN packNibbles; ext k hk; simp; grind
@[simp] theorem fieldOp_packXKK : fieldOp (packXKK op x kk) = op := by
  unfold fieldOp packXKK; ext k hk; simp; grind
@[simp] theorem fieldX_packXKK : fieldX (packXKK op x kk) = x := by
  unfold fieldX packXKK; ext k hk; simp; grind
@[simp] theorem fieldKK_packXKK : fieldKK (packXKK op x kk) = kk := by
  unfold fieldKK packXKK; ext k hk; simp; grind
@[simp] theorem fieldOp_packNNN : fieldOp (packNNN op nnn) = op := by
  unfold fieldOp packNNN; ext k hk; simp; grind
@[simp] theorem fieldNNN_packNNN : fieldNNN (packNNN op nnn) = nnn := by
  unfold fieldNNN packNNN; ext k hk; simp; grind

@[simp] theorem fieldY_packXKK : fieldY (packXKK op x kk) = kk.extractLsb' 4 4 := by
  unfold fieldY packXKK; ext k hk; simp; grind
@[simp] theorem fieldN_packXKK : fieldN (packXKK op x kk) = kk.extractLsb' 0 4 := by
  unfold fieldN packXKK; ext k hk; simp; grind
@[simp] theorem fieldX_packNNN : fieldX (packNNN op nnn) = nnn.extractLsb' 8 4 := by
  unfold fieldX packNNN; ext k hk; simp; grind
@[simp] theorem fieldY_packNNN : fieldY (packNNN op nnn) = nnn.extractLsb' 4 4 := by
  unfold fieldY packNNN; ext k hk; simp; grind
@[simp] theorem fieldN_packNNN : fieldN (packNNN op nnn) = nnn.extractLsb' 0 4 := by
  unfold fieldN packNNN; ext k hk; simp; grind

/-! ## A word from its fields: no bit is dropped -/

theorem packNibbles_fields : packNibbles (fieldOp w) (fieldX w) (fieldY w) (fieldN w) = w := by
  unfold packNibbles fieldOp fieldX fieldY fieldN; ext k hk; grind
theorem packXKK_fields : packXKK (fieldOp w) (fieldX w) (fieldKK w) = w := by
  unfold packXKK fieldOp fieldX fieldKK; ext k hk; grind
theorem packNNN_fields : packNNN (fieldOp w) (fieldNNN w) = w := by
  unfold packNNN fieldOp fieldNNN; ext k hk; grind

theorem packNNN_of {op : Nibble} (h : fieldOp w = op) : packNNN op (fieldNNN w) = w := by
  rw [← h]; exact packNNN_fields w

theorem packXKK_of {op : Nibble} (h : fieldOp w = op) : packXKK op (fieldX w) (fieldKK w) = w := by
  rw [← h]; exact packXKK_fields w

theorem packXKK_of_kk {op : Nibble} {kk : Byte} (h : fieldOp w = op) (hk : fieldKK w = kk) :
    packXKK op (fieldX w) kk = w := by
  rw [← h, ← hk]; exact packXKK_fields w

theorem packNibbles_of_n {op n : Nibble} (h : fieldOp w = op) (hn : fieldN w = n) :
    packNibbles op (fieldX w) (fieldY w) n = w := by
  rw [← h, ← hn]; exact packNibbles_fields w

/-- The fields overlap (R63): `KK = (Y << 4) | N`. -/
theorem fieldKK_eq : fieldKK w = fieldY w ++ fieldN w := by
  unfold fieldKK fieldY fieldN; ext k hk; simp; grind

/-- The fields overlap (R63): `NNN = (X << 8) | KK`. -/
theorem fieldNNN_eq : fieldNNN w = fieldX w ++ fieldKK w := by
  unfold fieldNNN fieldX fieldKK; ext k hk; simp; grind

/-- Two words of four nibbles are equal when their nibbles are. -/
theorem packNibbles_inj {a b c d a' b' c' d' : Nibble} :
    packNibbles a b c d = packNibbles a' b' c' d' ↔ a = a' ∧ b = b' ∧ c = c' ∧ d = d' := by
  constructor
  · intro h
    exact ⟨by simpa using congrArg fieldOp h, by simpa using congrArg fieldX h, by simpa using congrArg fieldY h,
      by simpa using congrArg fieldN h⟩
  · rintro ⟨rfl, rfl, rfl, rfl⟩; rfl

/-- A word is 0xabcd when its nibbles are. -/
theorem eq_packNibbles_iff {a b c d : Nibble} :
    w = packNibbles a b c d ↔ fieldOp w = a ∧ fieldX w = b ∧ fieldY w = c ∧ fieldN w = d := by
  conv_lhs => rw [← packNibbles_fields w]
  exact packNibbles_inj

/-! ## Masks of the opcode map (R70), nibble by nibble -/

theorem packNibbles_and (a b c d a' b' c' d' : Nibble) :
    packNibbles a b c d &&& packNibbles a' b' c' d' = packNibbles (a &&& a') (b &&& b') (c &&& c') (d &&& d') := by
  unfold packNibbles
  exact BitVec.and_append.trans (by rw [BitVec.and_append, BitVec.and_append])

theorem and_packNibbles (a b c d : Nibble) :
    w &&& packNibbles a b c d = packNibbles (fieldOp w &&& a) (fieldX w &&& b) (fieldY w &&& c) (fieldN w &&& d) := by
  conv_lhs => rw [← packNibbles_fields w]
  exact packNibbles_and ..

theorem nibble_and_F (a : Nibble) : a &&& 0xF#4 = a := BitVec.and_allOnes

theorem mask_F000 : w &&& 0xF000#16 = packNibbles (fieldOp w) 0x0 0x0 0x0 := by
  rw [show 0xF000#16 = packNibbles 0xF 0x0 0x0 0x0 from rfl, and_packNibbles]
  simp [nibble_and_F]
theorem mask_F00F : w &&& 0xF00F#16 = packNibbles (fieldOp w) 0x0 0x0 (fieldN w) := by
  rw [show 0xF00F#16 = packNibbles 0xF 0x0 0x0 0xF from rfl, and_packNibbles]
  simp [nibble_and_F]
theorem mask_F0FF : w &&& 0xF0FF#16 = packNibbles (fieldOp w) 0x0 (fieldY w) (fieldN w) := by
  rw [show 0xF0FF#16 = packNibbles 0xF 0x0 0xF 0xF from rfl, and_packNibbles]
  simp [nibble_and_F]
theorem mask_000F : w &&& 0x000F#16 = packNibbles 0x0 0x0 0x0 (fieldN w) := by
  rw [show 0x000F#16 = packNibbles 0x0 0x0 0x0 0xF from rfl, and_packNibbles]
  simp [nibble_and_F]
theorem mask_00FF : w &&& 0x00FF#16 = packNibbles 0x0 0x0 (fieldY w) (fieldN w) := by
  rw [show 0x00FF#16 = packNibbles 0x0 0x0 0xF 0xF from rfl, and_packNibbles]
  simp [nibble_and_F]
theorem mask_FFFF : w &&& 0xFFFF#16 = w := BitVec.and_allOnes

/-! ## The decoder by its leading nibble (R67): cite these rather than unfold `decode` -/

variable {w}

theorem decode_op0 (h : fieldOp w = 0x0#4) : decode w = decode0 w := by simp [decode, h]
theorem decode_op1 (h : fieldOp w = 0x1#4) : decode w = .instr (.jp (fieldNNN w)) := by simp [decode, h]
theorem decode_op2 (h : fieldOp w = 0x2#4) : decode w = .instr (.call (fieldNNN w)) := by simp [decode, h]
theorem decode_op3 (h : fieldOp w = 0x3#4) : decode w = .instr (.seImm (fieldX w) (fieldKK w)) := by simp [decode, h]
theorem decode_op4 (h : fieldOp w = 0x4#4) : decode w = .instr (.sneImm (fieldX w) (fieldKK w)) := by simp [decode, h]
theorem decode_op5 (h : fieldOp w = 0x5#4) : decode w = if fieldN w = 0x0#4 then .instr (.seReg (fieldX w) (fieldY w)) else .unknown w := by simp [decode, h]
theorem decode_op6 (h : fieldOp w = 0x6#4) : decode w = .instr (.ldImm (fieldX w) (fieldKK w)) := by simp [decode, h]
theorem decode_op7 (h : fieldOp w = 0x7#4) : decode w = .instr (.addImm (fieldX w) (fieldKK w)) := by simp [decode, h]
theorem decode_op8 (h : fieldOp w = 0x8#4) : decode w = decode8 w := by simp [decode, h]
theorem decode_op9 (h : fieldOp w = 0x9#4) : decode w = if fieldN w = 0x0#4 then .instr (.sneReg (fieldX w) (fieldY w)) else .unknown w := by simp [decode, h]
theorem decode_opA (h : fieldOp w = 0xA#4) : decode w = .instr (.ldI (fieldNNN w)) := by simp [decode, h]
theorem decode_opB (h : fieldOp w = 0xB#4) : decode w = .instr (.jpV0 (fieldNNN w)) := by simp [decode, h]
theorem decode_opC (h : fieldOp w = 0xC#4) : decode w = .instr (.rnd (fieldX w) (fieldKK w)) := by simp [decode, h]
theorem decode_opD (h : fieldOp w = 0xD#4) : decode w = .instr (.unimplDXYN (fieldX w) (fieldY w) (fieldN w)) := by simp [decode, h]
theorem decode_opE (h : fieldOp w = 0xE#4) : decode w = decodeE w := by simp [decode, h]
theorem decode_opF (h : fieldOp w = 0xF#4) : decode w = decodeF w := by simp [decode, h]

variable (w)

/-- A nibble is one of sixteen. -/
theorem nibble_cases (a : Nibble) :
    a = 0x0#4 ∨ a = 0x1#4 ∨ a = 0x2#4 ∨ a = 0x3#4 ∨ a = 0x4#4 ∨ a = 0x5#4 ∨ a = 0x6#4 ∨ a = 0x7#4 ∨
    a = 0x8#4 ∨ a = 0x9#4 ∨ a = 0xA#4 ∨ a = 0xB#4 ∨ a = 0xC#4 ∨ a = 0xD#4 ∨ a = 0xE#4 ∨ a = 0xF#4 := by
  decide +revert

/-- The low byte from its two nibbles. -/
theorem fieldKK_eq_iff {a b : Nibble} : fieldKK w = a ++ b ↔ fieldY w = a ∧ fieldN w = b := by
  rw [fieldKK_eq]
  constructor
  · intro h
    have hi := congrArg (fun v : Byte => v.extractLsb' 4 4) h
    have lo := congrArg (fun v : Byte => v.extractLsb' 0 4) h
    simp only [BitVec.extractLsb'_append_eq_left, BitVec.extractLsb'_append_eq_right] at hi lo
    exact ⟨hi, lo⟩
  · rintro ⟨rfl, rfl⟩; rfl

/-! ## Bytes in memory order (20_memory.md R50) -/

@[simp] theorem wordOfBytes_highByte_lowByte : wordOfBytes (highByte w) (lowByte w) = w := by
  unfold wordOfBytes highByte lowByte; ext k hk; grind
@[simp] theorem highByte_wordOfBytes (hi lo : Byte) : highByte (wordOfBytes hi lo) = hi := by
  unfold highByte wordOfBytes; ext k hk; simp; grind
@[simp] theorem lowByte_wordOfBytes (hi lo : Byte) : lowByte (wordOfBytes hi lo) = lo := by
  unfold lowByte wordOfBytes; ext k hk; simp; grind

/-- The word of R50, `(hi << 8) | lo`, as a natural number. -/
theorem wordOfBytes_toNat (hi lo : Byte) : (wordOfBytes hi lo).toNat = hi.toNat * 256 + lo.toNat := by
  have : wordOfBytes hi lo = hi ++ lo := rfl
  rw [this, BitVec.toNat_append, ← Nat.shiftLeft_add_eq_or_of_lt lo.isLt, Nat.shiftLeft_eq]

/-- The decoder on two bytes in memory order is the decoder on their word. -/
theorem decodeTableWord_eq (nbits v : Nat) :
    decodeTableWord nbits v = match decode (tableWord nbits v) with
      | .instr i => some i
      | .unknown _ => none := by
  simp only [decodeTableWord, decodeBytes, wordOfBytes_highByte_lowByte]
  cases decode (tableWord nbits v) <;> rfl

end Sys2Proof
end

