-- ==== Sys2Proof/Laws/Memory.lean ====
section
/-!
SUPPORT. Memory: read after write, and that every memory operation keeps the canonical form.
-/

namespace Sys2Proof.Machine

theorem Memory.cellOf_lt (a : Nat) : Memory.cellOf a < Config.memSize := Nat.mod_lt _ (by decide)

/-- An address is masked once: masking again changes nothing (20_memory.md R48). -/
@[simp] theorem Memory.cellOf_mod (a : Nat) : Memory.cellOf (a % Config.memSize) = Memory.cellOf a :=
  Nat.mod_mod _ _

theorem Memory.cellOf_of_lt {a : Nat} (h : a < Config.memSize) : Memory.cellOf a = a := Nat.mod_eq_of_lt h

@[simp] theorem Memory.get_nil (a : Nat) : Memory.get [] a = Memory.blank := rfl

@[simp] theorem Memory.read_nil (a : Nat) : Memory.read [] a = Memory.blank := rfl

theorem Memory.wfFrom_cons {lo a : Nat} {v : Byte} {rest : Memory} :
    Memory.wfFrom lo ((a, v) :: rest) = true ↔
      lo ≤ a ∧ a < Config.memSize ∧ v ≠ Memory.blank ∧ Memory.wfFrom (a + 1) rest = true := by
  simp [Memory.wfFrom, and_assoc]

/-- The canonical form from an address holds from every lower one. -/
theorem Memory.wfFrom_mono {lo lo' : Nat} (h : lo' ≤ lo) : ∀ {m : Memory}, Memory.wfFrom lo m = true →
    Memory.wfFrom lo' m = true
  | [], _ => rfl
  | (a, v) :: rest, hm => by
    rw [Memory.wfFrom_cons] at hm ⊢
    exact ⟨by omega, hm.2⟩

/-- Below the first listed address every cell is blank. -/
theorem Memory.get_below {a : Nat} : ∀ {lo : Nat} {m : Memory}, Memory.wfFrom lo m = true → a < lo →
    Memory.get m a = Memory.blank
  | _, [], _, _ => rfl
  | lo, (b, v) :: rest, hm, h => by
    rw [Memory.wfFrom_cons] at hm
    rw [Memory.get, if_neg (by omega)]
    exact Memory.get_below hm.2.2.2 (by omega)

/-- A put sets its own cell and no other. -/
theorem Memory.get_put (a : Nat) (v : Byte) (c : Nat) : ∀ {lo : Nat} {m : Memory}, Memory.wfFrom lo m = true →
    Memory.get (Memory.put m a v) c = if c = a then v else Memory.get m c
  | _, [], _ => by
    unfold Memory.put
    split <;> simp_all [Memory.get]
  | lo, (b, u) :: rest, hm => by
    rw [Memory.wfFrom_cons] at hm
    have below := fun h => Memory.get_below (a := c) hm.2.2.2 h
    unfold Memory.put
    split
    · split
      · subst v
        by_cases hc : c = a
        · subst hc; simp [Memory.get, below (by omega), show ¬ c = b by omega]
        · simp [hc]
      · rfl
    · split
      · subst b
        split
        · subst v
          by_cases hc : c = a
          · subst hc; simp [below (by omega)]
          · simp [hc, Memory.get]
        · by_cases hc : c = a <;> simp [Memory.get, hc]
      · rw [Memory.get, Memory.get_put a v c hm.2.2.2, Memory.get]
        by_cases hc : c = b
        · simp [hc, show ¬ b = a by omega]
        · simp [hc]

/-- A put keeps the canonical form. -/
theorem Memory.wfFrom_put {a : Nat} {v : Byte} (ha : a < Config.memSize) : ∀ {lo : Nat} {m : Memory},
    Memory.wfFrom lo m = true → lo ≤ a → Memory.wfFrom lo (Memory.put m a v) = true
  | lo, [], _, h => by
    unfold Memory.put
    split
    · rfl
    · simp_all [Memory.wfFrom]
  | lo, (b, u) :: rest, hm, h => by
    have hm' := hm
    rw [Memory.wfFrom_cons] at hm'
    unfold Memory.put
    split
    · split
      · exact hm
      · simp_all [Memory.wfFrom_cons]
    · split
      · split
        · exact Memory.wfFrom_mono (by omega) hm'.2.2.2
        · simp_all [Memory.wfFrom_cons]
      · rw [Memory.wfFrom_cons]
        exact ⟨hm'.1, hm'.2.1, hm'.2.2.1, Memory.wfFrom_put ha hm'.2.2.2 (by omega)⟩

/-- `MemRead` after `MemWrite` (20_memory.md R46, R47): both addresses are masked. -/
theorem Memory.read_write {m : Memory} (hm : Memory.wf m = true) (a c : Nat) (v : Byte) :
    Memory.read (Memory.write m a v) c = if Memory.cellOf c = Memory.cellOf a then v else Memory.read m c :=
  Memory.get_put _ _ _ hm

/-- `MemWrite` keeps the canonical form. -/
theorem Memory.wf_write {m : Memory} (hm : Memory.wf m = true) (a : Nat) (v : Byte) :
    Memory.wf (Memory.write m a v) = true :=
  Memory.wfFrom_put (Memory.cellOf_lt a) hm (Nat.zero_le _)

/-- Consecutive writes keep the canonical form. -/
theorem Memory.wf_writeBytes : ∀ {m : Memory} (a : Nat) (bytes : List Byte), Memory.wf m = true →
    Memory.wf (Memory.writeBytes m a bytes) = true
  | _, _, [], hm => hm
  | _, a, b :: rest, hm => Memory.wf_writeBytes (a + 1) rest (Memory.wf_write hm a b)

/-- Equal memories are equal data: two canonical lists that read alike in every cell are one list. -/
theorem Memory.ext : ∀ {lo : Nat} {m m' : Memory}, Memory.wfFrom lo m = true → Memory.wfFrom lo m' = true →
    (∀ a, Memory.get m a = Memory.get m' a) → m = m'
  | _, [], [], _, _, _ => rfl
  | _, [], (b, v) :: rest, _, hm', h => by
    rw [Memory.wfFrom_cons] at hm'
    have := h b
    simp [Memory.get] at this
    exact absurd this.symm hm'.2.2.1
  | _, (b, v) :: rest, [], hm, _, h => by
    rw [Memory.wfFrom_cons] at hm
    have := h b
    simp [Memory.get] at this
    exact absurd this hm.2.2.1
  | _, (a, v) :: rest, (b, u) :: rest', hm, hm', h => by
    rw [Memory.wfFrom_cons] at hm hm'
    have hab : a = b := by
      rcases Nat.lt_trichotomy a b with hlt | heq | hgt
      · have := h a
        simp [Memory.get, show ¬ a = b by omega, Memory.get_below hm'.2.2.2 (show a < b + 1 by omega)] at this
        exact absurd this hm.2.2.1
      · exact heq
      · have := h b
        simp [Memory.get, show ¬ b = a by omega, Memory.get_below hm.2.2.2 (show b < a + 1 by omega)] at this
        exact absurd this.symm hm'.2.2.1
    subst hab
    have hv : v = u := by simpa [Memory.get] using h a
    subst hv
    congr 1
    refine Memory.ext hm.2.2.2 hm'.2.2.2 fun c => ?_
    by_cases hc : c = a
    · subst hc
      rw [Memory.get_below hm.2.2.2 (Nat.lt_succ_self _), Memory.get_below hm'.2.2.2 (Nat.lt_succ_self _)]
    · simpa [Memory.get, hc] using h c

/-- Consecutive writes that stay below the end of memory: the bytes in order from their address, every other cell as
before (20_memory.md R47, 70_reset_and_hazards.md R151). -/
theorem Memory.read_writeBytes : ∀ (bytes : List Byte) {m : Memory} {a : Nat}, Memory.wf m = true →
    a + bytes.length ≤ Config.memSize → ∀ {c : Nat}, c < Config.memSize →
    Memory.read (Memory.writeBytes m a bytes) c =
      if h : a ≤ c ∧ c < a + bytes.length then bytes[c - a]'(by omega) else Memory.read m c
  | [], _, _, _, _, _, _ => by simp [Memory.writeBytes]
  | b :: bs, m, a, hm, hl, c, hc => by
    simp only [List.length_cons] at hl
    rw [Memory.writeBytes, Memory.read_writeBytes bs (Memory.wf_write hm _ _) (by omega) hc, Memory.read_write hm]
    by_cases h1 : a + 1 ≤ c ∧ c < a + 1 + bs.length
    · rw [dif_pos h1, dif_pos (by simp; omega)]
      simp [show c - a = (c - (a + 1)) + 1 by omega]
    · rw [dif_neg h1, Memory.cellOf_of_lt (a := a) (by omega), Memory.cellOf_of_lt hc]
      by_cases h2 : c = a
      · subst h2; simp
      · rw [if_neg (by simpa [eq_comm] using h2), dif_neg (by simp; omega)]

end Sys2Proof.Machine
end

