-- ==== Sys2Proof/Laws/State.lean ====
section
/-!
SUPPORT. One lemma per field of State per update, so that no later proof unfolds a record update; and the register
file's read after write.
-/

namespace Sys2Proof.Machine

variable (s : State)

/-! ## setV -/

@[simp] theorem State.setV_v (x : Nibble) (b : Byte) : (s.setV x b).v = s.v.set x.toNat b x.isLt := rfl
@[simp] theorem State.setV_i (x : Nibble) (b : Byte) : (s.setV x b).i = s.i := rfl
@[simp] theorem State.setV_pc (x : Nibble) (b : Byte) : (s.setV x b).pc = s.pc := rfl
@[simp] theorem State.setV_stack (x : Nibble) (b : Byte) : (s.setV x b).stack = s.stack := rfl
@[simp] theorem State.setV_sp (x : Nibble) (b : Byte) : (s.setV x b).sp = s.sp := rfl
@[simp] theorem State.setV_dt (x : Nibble) (b : Byte) : (s.setV x b).dt = s.dt := rfl
@[simp] theorem State.setV_st (x : Nibble) (b : Byte) : (s.setV x b).st = s.st := rfl
@[simp] theorem State.setV_mem (x : Nibble) (b : Byte) : (s.setV x b).mem = s.mem := rfl
@[simp] theorem State.setV_cfg (x : Nibble) (b : Byte) : (s.setV x b).cfg = s.cfg := rfl
@[simp] theorem State.setV_run (x : Nibble) (b : Byte) : (s.setV x b).run = s.run := rfl
@[simp] theorem State.setV_diagnostics (x : Nibble) (b : Byte) : (s.setV x b).diagnostics = s.diagnostics := rfl
@[simp] theorem State.setV_rand (x : Nibble) (b : Byte) : (s.setV x b).rand = s.rand := rfl
@[simp] theorem State.setV_freeDraws (x : Nibble) (b : Byte) : (s.setV x b).freeDraws = s.freeDraws := rfl
@[simp] theorem State.setV_readMem (x : Nibble) (b : Byte) (a : Nat) : (s.setV x b).readMem a = s.readMem a := rfl
@[simp] theorem State.setV_getI (x : Nibble) (b : Byte) : (s.setV x b).getI = s.getI := rfl

/-! ## setI -/

@[simp] theorem State.setI_v (w : Word) : (s.setI w).v = s.v := rfl
@[simp] theorem State.setI_i (w : Word) : (s.setI w).i = w &&& 0x0FFF := rfl
@[simp] theorem State.setI_pc (w : Word) : (s.setI w).pc = s.pc := rfl
@[simp] theorem State.setI_stack (w : Word) : (s.setI w).stack = s.stack := rfl
@[simp] theorem State.setI_sp (w : Word) : (s.setI w).sp = s.sp := rfl
@[simp] theorem State.setI_dt (w : Word) : (s.setI w).dt = s.dt := rfl
@[simp] theorem State.setI_st (w : Word) : (s.setI w).st = s.st := rfl
@[simp] theorem State.setI_mem (w : Word) : (s.setI w).mem = s.mem := rfl
@[simp] theorem State.setI_cfg (w : Word) : (s.setI w).cfg = s.cfg := rfl
@[simp] theorem State.setI_run (w : Word) : (s.setI w).run = s.run := rfl
@[simp] theorem State.setI_diagnostics (w : Word) : (s.setI w).diagnostics = s.diagnostics := rfl
@[simp] theorem State.setI_rand (w : Word) : (s.setI w).rand = s.rand := rfl
@[simp] theorem State.setI_freeDraws (w : Word) : (s.setI w).freeDraws = s.freeDraws := rfl
@[simp] theorem State.setI_getV (w : Word) (r : Nibble) : (s.setI w).getV r = s.getV r := rfl
@[simp] theorem State.setI_readMem (w : Word) (a : Nat) : (s.setI w).readMem a = s.readMem a := rfl

/-! ## setPc -/

@[simp] theorem State.setPc_v (w : Word) : (s.setPc w).v = s.v := rfl
@[simp] theorem State.setPc_i (w : Word) : (s.setPc w).i = s.i := rfl
@[simp] theorem State.setPc_pc (w : Word) : (s.setPc w).pc = w := rfl
@[simp] theorem State.setPc_stack (w : Word) : (s.setPc w).stack = s.stack := rfl
@[simp] theorem State.setPc_sp (w : Word) : (s.setPc w).sp = s.sp := rfl
@[simp] theorem State.setPc_dt (w : Word) : (s.setPc w).dt = s.dt := rfl
@[simp] theorem State.setPc_st (w : Word) : (s.setPc w).st = s.st := rfl
@[simp] theorem State.setPc_mem (w : Word) : (s.setPc w).mem = s.mem := rfl
@[simp] theorem State.setPc_cfg (w : Word) : (s.setPc w).cfg = s.cfg := rfl
@[simp] theorem State.setPc_run (w : Word) : (s.setPc w).run = s.run := rfl
@[simp] theorem State.setPc_diagnostics (w : Word) : (s.setPc w).diagnostics = s.diagnostics := rfl
@[simp] theorem State.setPc_rand (w : Word) : (s.setPc w).rand = s.rand := rfl
@[simp] theorem State.setPc_freeDraws (w : Word) : (s.setPc w).freeDraws = s.freeDraws := rfl
@[simp] theorem State.setPc_getV (w : Word) (r : Nibble) : (s.setPc w).getV r = s.getV r := rfl
@[simp] theorem State.setPc_readMem (w : Word) (a : Nat) : (s.setPc w).readMem a = s.readMem a := rfl
@[simp] theorem State.setPc_getI (w : Word) : (s.setPc w).getI = s.getI := rfl

/-! ## writeMem -/

@[simp] theorem State.writeMem_v (a : Nat) (b : Byte) : (s.writeMem a b).v = s.v := rfl
@[simp] theorem State.writeMem_i (a : Nat) (b : Byte) : (s.writeMem a b).i = s.i := rfl
@[simp] theorem State.writeMem_pc (a : Nat) (b : Byte) : (s.writeMem a b).pc = s.pc := rfl
@[simp] theorem State.writeMem_stack (a : Nat) (b : Byte) : (s.writeMem a b).stack = s.stack := rfl
@[simp] theorem State.writeMem_sp (a : Nat) (b : Byte) : (s.writeMem a b).sp = s.sp := rfl
@[simp] theorem State.writeMem_dt (a : Nat) (b : Byte) : (s.writeMem a b).dt = s.dt := rfl
@[simp] theorem State.writeMem_st (a : Nat) (b : Byte) : (s.writeMem a b).st = s.st := rfl
@[simp] theorem State.writeMem_mem (a : Nat) (b : Byte) : (s.writeMem a b).mem = Memory.write s.mem a b := rfl
@[simp] theorem State.writeMem_cfg (a : Nat) (b : Byte) : (s.writeMem a b).cfg = s.cfg := rfl
@[simp] theorem State.writeMem_run (a : Nat) (b : Byte) : (s.writeMem a b).run = s.run := rfl
@[simp] theorem State.writeMem_diagnostics (a : Nat) (b : Byte) : (s.writeMem a b).diagnostics = s.diagnostics := rfl
@[simp] theorem State.writeMem_rand (a : Nat) (b : Byte) : (s.writeMem a b).rand = s.rand := rfl
@[simp] theorem State.writeMem_freeDraws (a : Nat) (b : Byte) : (s.writeMem a b).freeDraws = s.freeDraws := rfl
@[simp] theorem State.writeMem_getV (a : Nat) (b : Byte) (r : Nibble) : (s.writeMem a b).getV r = s.getV r := rfl
@[simp] theorem State.writeMem_getI (a : Nat) (b : Byte) : (s.writeMem a b).getI = s.getI := rfl

/-! ## advancePc -/

@[simp] theorem State.advancePc_v : (s.advancePc).v = s.v := rfl
@[simp] theorem State.advancePc_i : (s.advancePc).i = s.i := rfl
@[simp] theorem State.advancePc_pc : (s.advancePc).pc = s.pc + 2 := rfl
@[simp] theorem State.advancePc_stack : (s.advancePc).stack = s.stack := rfl
@[simp] theorem State.advancePc_sp : (s.advancePc).sp = s.sp := rfl
@[simp] theorem State.advancePc_dt : (s.advancePc).dt = s.dt := rfl
@[simp] theorem State.advancePc_st : (s.advancePc).st = s.st := rfl
@[simp] theorem State.advancePc_mem : (s.advancePc).mem = s.mem := rfl
@[simp] theorem State.advancePc_cfg : (s.advancePc).cfg = s.cfg := rfl
@[simp] theorem State.advancePc_run : (s.advancePc).run = s.run := rfl
@[simp] theorem State.advancePc_diagnostics : (s.advancePc).diagnostics = s.diagnostics := rfl
@[simp] theorem State.advancePc_rand : (s.advancePc).rand = s.rand := rfl
@[simp] theorem State.advancePc_freeDraws : (s.advancePc).freeDraws = s.freeDraws := rfl
@[simp] theorem State.advancePc_getV (r : Nibble) : (s.advancePc).getV r = s.getV r := rfl
@[simp] theorem State.advancePc_readMem (a : Nat) : (s.advancePc).readMem a = s.readMem a := rfl
@[simp] theorem State.advancePc_getI : (s.advancePc).getI = s.getI := rfl

/-! ## raise -/

@[simp] theorem State.raise_v (k : ErrorKind) (w : Word) : (s.raise k w).v = s.v := rfl
@[simp] theorem State.raise_i (k : ErrorKind) (w : Word) : (s.raise k w).i = s.i := rfl
@[simp] theorem State.raise_pc (k : ErrorKind) (w : Word) : (s.raise k w).pc = s.pc := rfl
@[simp] theorem State.raise_stack (k : ErrorKind) (w : Word) : (s.raise k w).stack = s.stack := rfl
@[simp] theorem State.raise_sp (k : ErrorKind) (w : Word) : (s.raise k w).sp = s.sp := rfl
@[simp] theorem State.raise_dt (k : ErrorKind) (w : Word) : (s.raise k w).dt = s.dt := rfl
@[simp] theorem State.raise_st (k : ErrorKind) (w : Word) : (s.raise k w).st = s.st := rfl
@[simp] theorem State.raise_mem (k : ErrorKind) (w : Word) : (s.raise k w).mem = s.mem := rfl
@[simp] theorem State.raise_cfg (k : ErrorKind) (w : Word) : (s.raise k w).cfg = s.cfg := rfl
@[simp] theorem State.raise_run (k : ErrorKind) (w : Word) : (s.raise k w).run = s.run := rfl
@[simp] theorem State.raise_diagnostics (k : ErrorKind) (w : Word) : (s.raise k w).diagnostics = s.diagnostics ++ [Diagnostic.of k s.fetchedFrom w] := rfl
@[simp] theorem State.raise_rand (k : ErrorKind) (w : Word) : (s.raise k w).rand = s.rand := rfl
@[simp] theorem State.raise_freeDraws (k : ErrorKind) (w : Word) : (s.raise k w).freeDraws = s.freeDraws := rfl
@[simp] theorem State.raise_getV (k : ErrorKind) (w : Word) (r : Nibble) : (s.raise k w).getV r = s.getV r := rfl
@[simp] theorem State.raise_readMem (k : ErrorKind) (w : Word) (a : Nat) : (s.raise k w).readMem a = s.readMem a := rfl
@[simp] theorem State.raise_getI (k : ErrorKind) (w : Word) : (s.raise k w).getI = s.getI := rfl

/-! ## setResultAndFlag -/

@[simp] theorem State.setResultAndFlag_i (x : Nibble) (b f : Byte) : (s.setResultAndFlag x b f).i = s.i := rfl
@[simp] theorem State.setResultAndFlag_pc (x : Nibble) (b f : Byte) : (s.setResultAndFlag x b f).pc = s.pc := rfl
@[simp] theorem State.setResultAndFlag_stack (x : Nibble) (b f : Byte) : (s.setResultAndFlag x b f).stack = s.stack := rfl
@[simp] theorem State.setResultAndFlag_sp (x : Nibble) (b f : Byte) : (s.setResultAndFlag x b f).sp = s.sp := rfl
@[simp] theorem State.setResultAndFlag_dt (x : Nibble) (b f : Byte) : (s.setResultAndFlag x b f).dt = s.dt := rfl
@[simp] theorem State.setResultAndFlag_st (x : Nibble) (b f : Byte) : (s.setResultAndFlag x b f).st = s.st := rfl
@[simp] theorem State.setResultAndFlag_mem (x : Nibble) (b f : Byte) : (s.setResultAndFlag x b f).mem = s.mem := rfl
@[simp] theorem State.setResultAndFlag_cfg (x : Nibble) (b f : Byte) : (s.setResultAndFlag x b f).cfg = s.cfg := rfl
@[simp] theorem State.setResultAndFlag_run (x : Nibble) (b f : Byte) : (s.setResultAndFlag x b f).run = s.run := rfl
@[simp] theorem State.setResultAndFlag_diagnostics (x : Nibble) (b f : Byte) : (s.setResultAndFlag x b f).diagnostics = s.diagnostics := rfl
@[simp] theorem State.setResultAndFlag_rand (x : Nibble) (b f : Byte) : (s.setResultAndFlag x b f).rand = s.rand := rfl
@[simp] theorem State.setResultAndFlag_freeDraws (x : Nibble) (b f : Byte) : (s.setResultAndFlag x b f).freeDraws = s.freeDraws := rfl
@[simp] theorem State.setResultAndFlag_readMem (x : Nibble) (b f : Byte) (a : Nat) : (s.setResultAndFlag x b f).readMem a = s.readMem a := rfl
@[simp] theorem State.setResultAndFlag_getI (x : Nibble) (b f : Byte) : (s.setResultAndFlag x b f).getI = s.getI := rfl

/-! ## beginTick -/

@[simp] theorem State.beginTick_v (bytes : List Byte) : (s.beginTick bytes).v = s.v := rfl
@[simp] theorem State.beginTick_i (bytes : List Byte) : (s.beginTick bytes).i = s.i := rfl
@[simp] theorem State.beginTick_pc (bytes : List Byte) : (s.beginTick bytes).pc = s.pc := rfl
@[simp] theorem State.beginTick_stack (bytes : List Byte) : (s.beginTick bytes).stack = s.stack := rfl
@[simp] theorem State.beginTick_sp (bytes : List Byte) : (s.beginTick bytes).sp = s.sp := rfl
@[simp] theorem State.beginTick_dt (bytes : List Byte) : (s.beginTick bytes).dt = s.dt := rfl
@[simp] theorem State.beginTick_st (bytes : List Byte) : (s.beginTick bytes).st = s.st := rfl
@[simp] theorem State.beginTick_mem (bytes : List Byte) : (s.beginTick bytes).mem = s.mem := rfl
@[simp] theorem State.beginTick_cfg (bytes : List Byte) : (s.beginTick bytes).cfg = s.cfg := rfl
@[simp] theorem State.beginTick_run (bytes : List Byte) : (s.beginTick bytes).run = s.run := rfl
@[simp] theorem State.beginTick_diagnostics (bytes : List Byte) : (s.beginTick bytes).diagnostics = [] := rfl
@[simp] theorem State.beginTick_rand (bytes : List Byte) : (s.beginTick bytes).rand = bytes := rfl
@[simp] theorem State.beginTick_freeDraws (bytes : List Byte) : (s.beginTick bytes).freeDraws = s.freeDraws := rfl
@[simp] theorem State.beginTick_getV (bytes : List Byte) (r : Nibble) : (s.beginTick bytes).getV r = s.getV r := rfl
@[simp] theorem State.beginTick_readMem (bytes : List Byte) (a : Nat) : (s.beginTick bytes).readMem a = s.readMem a := rfl
@[simp] theorem State.beginTick_getI (bytes : List Byte) : (s.beginTick bytes).getI = s.getI := rfl

/-! ## decrementTimers -/

@[simp] theorem State.decrementTimers_v : (s.decrementTimers).v = s.v := rfl
@[simp] theorem State.decrementTimers_i : (s.decrementTimers).i = s.i := rfl
@[simp] theorem State.decrementTimers_pc : (s.decrementTimers).pc = s.pc := rfl
@[simp] theorem State.decrementTimers_stack : (s.decrementTimers).stack = s.stack := rfl
@[simp] theorem State.decrementTimers_sp : (s.decrementTimers).sp = s.sp := rfl
@[simp] theorem State.decrementTimers_dt : (s.decrementTimers).dt = decTimer s.dt := rfl
@[simp] theorem State.decrementTimers_st : (s.decrementTimers).st = decTimer s.st := rfl
@[simp] theorem State.decrementTimers_mem : (s.decrementTimers).mem = s.mem := rfl
@[simp] theorem State.decrementTimers_cfg : (s.decrementTimers).cfg = s.cfg := rfl
@[simp] theorem State.decrementTimers_run : (s.decrementTimers).run = s.run := rfl
@[simp] theorem State.decrementTimers_diagnostics : (s.decrementTimers).diagnostics = s.diagnostics := rfl
@[simp] theorem State.decrementTimers_rand : (s.decrementTimers).rand = s.rand := rfl
@[simp] theorem State.decrementTimers_freeDraws : (s.decrementTimers).freeDraws = s.freeDraws := rfl
@[simp] theorem State.decrementTimers_getV (r : Nibble) : (s.decrementTimers).getV r = s.getV r := rfl
@[simp] theorem State.decrementTimers_readMem (a : Nat) : (s.decrementTimers).readMem a = s.readMem a := rfl
@[simp] theorem State.decrementTimers_getI : (s.decrementTimers).getI = s.getI := rfl

/-! ## endTick -/

@[simp] theorem State.endTick_v : (s.endTick).v = s.v := rfl
@[simp] theorem State.endTick_i : (s.endTick).i = s.i := rfl
@[simp] theorem State.endTick_pc : (s.endTick).pc = s.pc := rfl
@[simp] theorem State.endTick_stack : (s.endTick).stack = s.stack := rfl
@[simp] theorem State.endTick_sp : (s.endTick).sp = s.sp := rfl
@[simp] theorem State.endTick_dt : (s.endTick).dt = s.dt := rfl
@[simp] theorem State.endTick_st : (s.endTick).st = s.st := rfl
@[simp] theorem State.endTick_mem : (s.endTick).mem = s.mem := rfl
@[simp] theorem State.endTick_cfg : (s.endTick).cfg = s.cfg := rfl
@[simp] theorem State.endTick_run : (s.endTick).run = s.run := rfl
@[simp] theorem State.endTick_diagnostics : (s.endTick).diagnostics = [] := rfl
@[simp] theorem State.endTick_rand : (s.endTick).rand = [] := rfl
@[simp] theorem State.endTick_freeDraws : (s.endTick).freeDraws = s.freeDraws := rfl
@[simp] theorem State.endTick_getV (r : Nibble) : (s.endTick).getV r = s.getV r := rfl
@[simp] theorem State.endTick_readMem (a : Nat) : (s.endTick).readMem a = s.readMem a := rfl
@[simp] theorem State.endTick_getI : (s.endTick).getI = s.getI := rfl

/-! ## resetSession -/

@[simp] theorem State.resetSession_v (cfg : SessionConfig) : (s.resetSession cfg).v = Vector.replicate 16 0x00 := rfl
@[simp] theorem State.resetSession_i (cfg : SessionConfig) : (s.resetSession cfg).i = 0x000 := rfl
@[simp] theorem State.resetSession_pc (cfg : SessionConfig) : (s.resetSession cfg).pc = 0x200 := rfl
@[simp] theorem State.resetSession_stack (cfg : SessionConfig) : (s.resetSession cfg).stack = Vector.replicate 16 0x0000 := rfl
@[simp] theorem State.resetSession_sp (cfg : SessionConfig) : (s.resetSession cfg).sp = 0 := rfl
@[simp] theorem State.resetSession_dt (cfg : SessionConfig) : (s.resetSession cfg).dt = 0 := rfl
@[simp] theorem State.resetSession_st (cfg : SessionConfig) : (s.resetSession cfg).st = 0 := rfl
@[simp] theorem State.resetSession_mem (cfg : SessionConfig) : (s.resetSession cfg).mem = [] := rfl
@[simp] theorem State.resetSession_cfg (cfg : SessionConfig) : (s.resetSession cfg).cfg = cfg := rfl
@[simp] theorem State.resetSession_run (cfg : SessionConfig) : (s.resetSession cfg).run = .running := rfl
@[simp] theorem State.resetSession_diagnostics (cfg : SessionConfig) : (s.resetSession cfg).diagnostics = [] := rfl
@[simp] theorem State.resetSession_rand (cfg : SessionConfig) : (s.resetSession cfg).rand = [] := rfl
@[simp] theorem State.resetSession_freeDraws (cfg : SessionConfig) : (s.resetSession cfg).freeDraws = s.freeDraws := rfl

/-! ## skipIf -/

@[simp] theorem State.skipIf_pc (c : Bool) : (s.skipIf c).pc = if c then s.pc + 2 else s.pc := by
  cases c <;> rfl
@[simp] theorem State.skipIf_v (c : Bool) : (s.skipIf c).v = s.v := by cases c <;> rfl
@[simp] theorem State.skipIf_i (c : Bool) : (s.skipIf c).i = s.i := by cases c <;> rfl
@[simp] theorem State.skipIf_stack (c : Bool) : (s.skipIf c).stack = s.stack := by cases c <;> rfl
@[simp] theorem State.skipIf_sp (c : Bool) : (s.skipIf c).sp = s.sp := by cases c <;> rfl
@[simp] theorem State.skipIf_dt (c : Bool) : (s.skipIf c).dt = s.dt := by cases c <;> rfl
@[simp] theorem State.skipIf_st (c : Bool) : (s.skipIf c).st = s.st := by cases c <;> rfl
@[simp] theorem State.skipIf_mem (c : Bool) : (s.skipIf c).mem = s.mem := by cases c <;> rfl
@[simp] theorem State.skipIf_cfg (c : Bool) : (s.skipIf c).cfg = s.cfg := by cases c <;> rfl
@[simp] theorem State.skipIf_run (c : Bool) : (s.skipIf c).run = s.run := by cases c <;> rfl
@[simp] theorem State.skipIf_diagnostics (c : Bool) : (s.skipIf c).diagnostics = s.diagnostics := by cases c <;> rfl
@[simp] theorem State.skipIf_rand (c : Bool) : (s.skipIf c).rand = s.rand := by cases c <;> rfl
@[simp] theorem State.skipIf_freeDraws (c : Bool) : (s.skipIf c).freeDraws = s.freeDraws := by cases c <;> rfl
@[simp] theorem State.skipIf_getV (c : Bool) (r : Nibble) : (s.skipIf c).getV r = s.getV r := by cases c <;> rfl
@[simp] theorem State.skipIf_readMem (c : Bool) (a : Nat) : (s.skipIf c).readMem a = s.readMem a := by cases c <;> rfl

/-! ## draw -/

@[simp] theorem State.draw_v : s.draw.2.v = s.v := by unfold State.draw; split <;> rfl
@[simp] theorem State.draw_i : s.draw.2.i = s.i := by unfold State.draw; split <;> rfl
@[simp] theorem State.draw_pc : s.draw.2.pc = s.pc := by unfold State.draw; split <;> rfl
@[simp] theorem State.draw_stack : s.draw.2.stack = s.stack := by unfold State.draw; split <;> rfl
@[simp] theorem State.draw_sp : s.draw.2.sp = s.sp := by unfold State.draw; split <;> rfl
@[simp] theorem State.draw_dt : s.draw.2.dt = s.dt := by unfold State.draw; split <;> rfl
@[simp] theorem State.draw_st : s.draw.2.st = s.st := by unfold State.draw; split <;> rfl
@[simp] theorem State.draw_mem : s.draw.2.mem = s.mem := by unfold State.draw; split <;> rfl
@[simp] theorem State.draw_cfg : s.draw.2.cfg = s.cfg := by unfold State.draw; split <;> rfl
@[simp] theorem State.draw_run : s.draw.2.run = s.run := by unfold State.draw; split <;> rfl
@[simp] theorem State.draw_diagnostics : s.draw.2.diagnostics = s.diagnostics := by unfold State.draw; split <;> rfl
@[simp] theorem State.draw_getV (r : Nibble) : s.draw.2.getV r = s.getV r := by unfold State.draw; split <;> rfl
@[simp] theorem State.draw_readMem (a : Nat) : s.draw.2.readMem a = s.readMem a := by unfold State.draw; split <;> rfl

/-! ## setTimer and loadProgram -/

@[simp] theorem State.setTimer_v (which : Timer) (n : Int) : (s.setTimer which n).v = s.v := by cases which <;> rfl
@[simp] theorem State.setTimer_i (which : Timer) (n : Int) : (s.setTimer which n).i = s.i := by cases which <;> rfl
@[simp] theorem State.setTimer_pc (which : Timer) (n : Int) : (s.setTimer which n).pc = s.pc := by cases which <;> rfl
@[simp] theorem State.setTimer_stack (which : Timer) (n : Int) : (s.setTimer which n).stack = s.stack := by cases which <;> rfl
@[simp] theorem State.setTimer_sp (which : Timer) (n : Int) : (s.setTimer which n).sp = s.sp := by cases which <;> rfl
@[simp] theorem State.setTimer_mem (which : Timer) (n : Int) : (s.setTimer which n).mem = s.mem := by cases which <;> rfl
@[simp] theorem State.setTimer_cfg (which : Timer) (n : Int) : (s.setTimer which n).cfg = s.cfg := by cases which <;> rfl
@[simp] theorem State.setTimer_run (which : Timer) (n : Int) : (s.setTimer which n).run = s.run := by cases which <;> rfl
@[simp] theorem State.setTimer_diagnostics (which : Timer) (n : Int) : (s.setTimer which n).diagnostics = s.diagnostics := by cases which <;> rfl
@[simp] theorem State.setTimer_rand (which : Timer) (n : Int) : (s.setTimer which n).rand = s.rand := by cases which <;> rfl
@[simp] theorem State.setTimer_freeDraws (which : Timer) (n : Int) : (s.setTimer which n).freeDraws = s.freeDraws := by cases which <;> rfl
@[simp] theorem State.loadProgram_v (bytes : List Byte) : (s.loadProgram bytes).1.v = s.v := by
  unfold State.loadProgram; split <;> rfl
@[simp] theorem State.loadProgram_i (bytes : List Byte) : (s.loadProgram bytes).1.i = s.i := by
  unfold State.loadProgram; split <;> rfl
@[simp] theorem State.loadProgram_pc (bytes : List Byte) : (s.loadProgram bytes).1.pc = s.pc := by
  unfold State.loadProgram; split <;> rfl
@[simp] theorem State.loadProgram_stack (bytes : List Byte) : (s.loadProgram bytes).1.stack = s.stack := by
  unfold State.loadProgram; split <;> rfl
@[simp] theorem State.loadProgram_sp (bytes : List Byte) : (s.loadProgram bytes).1.sp = s.sp := by
  unfold State.loadProgram; split <;> rfl
@[simp] theorem State.loadProgram_dt (bytes : List Byte) : (s.loadProgram bytes).1.dt = s.dt := by
  unfold State.loadProgram; split <;> rfl
@[simp] theorem State.loadProgram_st (bytes : List Byte) : (s.loadProgram bytes).1.st = s.st := by
  unfold State.loadProgram; split <;> rfl
@[simp] theorem State.loadProgram_cfg (bytes : List Byte) : (s.loadProgram bytes).1.cfg = s.cfg := by
  unfold State.loadProgram; split <;> rfl
@[simp] theorem State.loadProgram_diagnostics (bytes : List Byte) : (s.loadProgram bytes).1.diagnostics = s.diagnostics := by
  unfold State.loadProgram; split <;> rfl
@[simp] theorem State.loadProgram_rand (bytes : List Byte) : (s.loadProgram bytes).1.rand = s.rand := by
  unfold State.loadProgram; split <;> rfl
@[simp] theorem State.loadProgram_freeDraws (bytes : List Byte) : (s.loadProgram bytes).1.freeDraws = s.freeDraws := by
  unfold State.loadProgram; split <;> rfl

/-! ## The register file: read after write -/

theorem State.getV_setV (x r : Nibble) (b : Byte) : (s.setV x b).getV r = if r = x then b else s.getV r := by
  simp only [State.getV, State.setV, Vector.getElem_set, BitVec.toNat_inj, eq_comm]

@[simp] theorem State.getV_setV_same (x : Nibble) (b : Byte) : (s.setV x b).getV x = b := by
  simp [State.getV_setV]

@[simp] theorem State.getV_setV_other {x r : Nibble} (b : Byte) (h : r ≠ x) : (s.setV x b).getV r = s.getV r := by
  simp [State.getV_setV, h]

/-- The flag is written last: VF holds it whatever the destination is. -/
theorem State.getV_setResultAndFlag (x r : Nibble) (b f : Byte) :
    (s.setResultAndFlag x b f).getV r = if r = flagIndex then f else if r = x then b else s.getV r := by
  simp only [State.setResultAndFlag, State.getV_setV]

/-- Two states with the same registers have the same register file. -/
theorem State.v_ext {s t : State} (h : ∀ r : Nibble, t.getV r = s.getV r) : t.v = s.v := by
  apply Vector.ext
  intro k hk
  have := h (BitVec.ofNat 4 k)
  simpa [State.getV, Nat.mod_eq_of_lt hk] using this

end Sys2Proof.Machine
end

