-- ==== Sys2Proof/Laws/Ops.lean ====
section
/-!
SUPPORT. One lemma per shared operation that says once everything it can do.
-/

namespace Sys2Proof.Machine

variable {s t : State}

/-! ## The call stack (10_state.md R26) -/

/-- `push_return` with room: the entry at the old SP, SP one up, nothing else. -/
theorem State.pushReturn_of_lt (a : Word) (h : s.sp.val < 16) :
    s.pushReturn a =
      some { s with stack := s.stack.set s.sp.val a h, sp := ⟨s.sp.val + 1, Nat.succ_lt_succ h⟩ } := by
  rw [State.pushReturn, dif_pos h]

/-- `push_return` fails exactly on a full stack. -/
theorem State.pushReturn_eq_none_iff (a : Word) : s.pushReturn a = none ↔ s.sp.val = 16 := by
  have := s.sp.isLt
  unfold State.pushReturn
  split <;> simp <;> omega

/-- `pop_return` on a stack that is not empty: the entry below SP, SP one down, nothing else. -/
theorem State.popReturn_of_sp {n : Nat} (h : s.sp.val = n + 1) :
    s.popReturn =
      some (s.stack[n]'(by have := s.sp.isLt; omega), { s with sp := ⟨n, by have := s.sp.isLt; omega⟩ }) := by
  obtain ⟨v, i, pc, stack, ⟨k, hk⟩, dt, st, mem, cfg, run, diagnostics, rand, freeDraws⟩ := s
  simp only at h
  subst h
  rfl

/-- `pop_return` fails exactly on an empty stack. -/
theorem State.popReturn_eq_none_iff : s.popReturn = none ↔ s.sp.val = 0 := by
  obtain ⟨v, i, pc, stack, ⟨k, hk⟩, dt, st, mem, cfg, run, diagnostics, rand, freeDraws⟩ := s
  cases k <;> simp [State.popReturn]

/-! ## The draw (42_index_jump_random.md R108) -/

/-- A draw with a supplied byte takes it. -/
theorem State.draw_of_cons {r : Byte} {rest : List Byte} (h : s.rand = r :: rest) :
    s.draw = (r, { s with rand := rest }) := by
  simp [State.draw, h]

/-- A draw with none left takes a free value and counts it. -/
theorem State.draw_of_nil (h : s.rand = []) :
    s.draw = (Config.freeRandom s.freeDraws, { s with freeDraws := s.freeDraws + 1 }) := by
  simp [State.draw, h]

/-! ## Fetch and raise -/

/-- In the execute phase the address of the fetch is the PC before it (30_encoding.md R75). -/
@[simp] theorem State.fetchedFrom_advancePc : s.advancePc.fetchedFrom = s.pc := by
  simp [State.fetchedFrom, State.advancePc, State.setPc]

/-! ## Timers -/

/-- A timer's decrement as a natural number: down by one, held at 0 (60_exceptions.md R141). -/
theorem decTimer_toNat (t : Byte) : (decTimer t).toNat = t.toNat - 1 := by
  unfold decTimer
  split <;> bv_omega

/-- The setters' clamp of any integer (10_state.md R29). -/
theorem clampByte_toNat (v : Int) : ((clampByte v).toNat : Int) = min (max v 0) 255 := by
  unfold clampByte
  split
  · simp; omega
  · split
    · simp; omega
    · simp only [BitVec.toNat_ofInt]; omega

/-! ## Results and flags (41_load_alu.md R93) -/

theorem sumResult_toNat (a b : Byte) : (sumResult a b).toNat = (a.toNat + b.toNat) % 256 := by
  simp [sumResult]

theorem sumResult_eq_add (a b : Byte) : sumResult a b = a + b := by
  apply BitVec.eq_of_toNat_eq; simp [sumResult]

theorem diffResult_eq_sub (a b : Byte) : diffResult a b = a - b := by
  apply BitVec.eq_of_toNat_eq
  have := a.isLt
  have := b.isLt
  rw [diffResult, BitVec.toNat_ofInt, BitVec.toNat_sub]
  omega

theorem diffResult_toNat (a b : Byte) : (diffResult a b).toNat = (256 + a.toNat - b.toNat) % 256 := by
  rw [diffResult_eq_sub]; bv_omega

theorem shrResult_toNat (b : Byte) : (shrResult b).toNat = b.toNat / 2 := by
  simp [shrResult, Nat.shiftRight_eq_div_pow]

theorem shrFlag_toNat (b : Byte) : (shrFlag b).toNat = b.toNat % 2 := by
  simp [shrFlag, Nat.and_one_is_mod]

theorem shlResult_toNat (b : Byte) : (shlResult b).toNat = 2 * b.toNat % 256 := by
  simp [shlResult, Nat.shiftLeft_eq, Nat.mul_comm]

theorem shlFlag_toNat (b : Byte) : (shlFlag b).toNat = b.toNat / 128 := by
  have := b.isLt
  rw [shlFlag, BitVec.toNat_and, BitVec.toNat_ushiftRight, Nat.shiftRight_eq_div_pow]
  simp only [BitVec.ofNat_eq_ofNat, BitVec.toNat_ofNat, Nat.reducePow, Nat.reduceMod, Nat.and_one_is_mod]
  omega

/-! ## Addresses (30_encoding.md R64) -/

theorem zextAddr_toNat (nnn : Addr) : (zextAddr nnn).toNat = nnn.toNat := by
  have := nnn.isLt
  rw [zextAddr, BitVec.toNat_setWidth]
  omega

/-- The mask `0x0FFF` is reduction modulo 4096. -/
theorem and_0FFF_toNat (w : Word) : (w &&& 0x0FFF#16).toNat = w.toNat % 4096 := by
  rw [BitVec.toNat_and, show (0x0FFF#16).toNat = 2 ^ 12 - 1 from rfl, Nat.and_two_pow_sub_one_eq_mod]

theorem indexedTarget_toNat (nnn : Addr) (b : Byte) : (indexedTarget nnn b).toNat = (nnn.toNat + b.toNat) % 4096 := by
  rw [indexedTarget, BitVec.ofNat_eq_ofNat, and_0FFF_toNat, BitVec.toNat_ofNat]
  omega

end Sys2Proof.Machine
end

