-- ==== Sys2Proof/Laws/Exec.lean ====
section
/-!
SUPPORT. What a step calls, and the frames of the shared operations: later proofs cite these instead of unfolding the
step or a record update.
-/

namespace Sys2Proof.Machine

variable (s : State)

/-! ## The step -/

theorem step_running {s : State} (h : s.run = .running) : step s = execute (decode s.fetchWord) s.advancePc := by
  simp [step, h]

theorem step_halted {s : State} (h : s.run = .halted) : step s = .next s := by
  simp [step, h]

@[simp] theorem execute_instr (i : Instr) : execute (.instr i) s = exec i s := rfl

@[simp] theorem execute_unknown (w : Word) : execute (.unknown w) s = .next (s.raise .unknownOpcode w) := rfl

/-- The 13 unimplemented instructions share one effect (43_unimplemented.md R109). -/
theorem exec_of_unimplemented {i : Instr} (h : i.unimplemented = true) :
    exec i s = .next (s.raise .unknownOpcode (encode i)) := by
  cases i <;> first | rfl | simp [Instr.unimplemented, Instr.tag] at h

/-! ## CALL and RET (40_control.md R86, R88) -/

theorem execCall_of_lt {s : State} (nnn : Addr) (h : s.sp.val < 16) :
    execCall nnn s = .next ({ s with
      stack := s.stack.set s.sp.val s.pc h, sp := ⟨s.sp.val + 1, Nat.succ_lt_succ h⟩ }.setPc (zextAddr nnn)) := by
  rw [execCall, State.pushReturn_of_lt _ h]

theorem execCall_of_full {s : State} (nnn : Addr) (h : s.sp.val = 16) :
    execCall nnn s = .next (s.raise .stackOverflow (encode (.call nnn))) := by
  rw [execCall, (State.pushReturn_eq_none_iff _).2 h]

theorem execRet_of_sp {s : State} {n : Nat} (h : s.sp.val = n + 1) :
    execRet s = .next ({ s with sp := ⟨n, by have := s.sp.isLt; omega⟩ }.setPc
      (s.stack[n]'(by have := s.sp.isLt; omega))) := by
  rw [execRet, State.popReturn_of_sp h]

theorem execRet_of_empty {s : State} (h : s.sp.val = 0) :
    execRet s = .next (s.raise .stackUnderflow (encode .ret)) := by
  rw [execRet, State.popReturn_eq_none_iff.2 h]

/-! ## Frames -/

/-- The storage frame from the fields. -/
theorem KeepsStorage.of_fields {s t : State} (mem : t.mem = s.mem) (sp : t.sp = s.sp) (stack : t.stack = s.stack)
    (dt : t.dt = s.dt) (st : t.st = s.st) (cfg : t.cfg = s.cfg) (run : t.run = s.run) : KeepsStorage s t :=
  ⟨fun a => by rw [State.readMem, State.readMem, mem], ⟨sp, stack⟩, ⟨dt, st⟩, cfg, run⟩

theorem onlyRegisters_setV (x : Nibble) (b : Byte) : OnlyRegisters [x] s (s.setV x b) where
  registers r hr := by simp_all
  index := rfl
  pc := rfl
  storage := .of_fields rfl rfl rfl rfl rfl rfl rfl
  records := rfl
  draws := ⟨rfl, rfl⟩

theorem onlyRegisters_setResultAndFlag (x : Nibble) (b f : Byte) :
    OnlyRegisters [x, flagIndex] s (s.setResultAndFlag x b f) where
  registers r hr := by simp_all [State.getV_setResultAndFlag]
  index := rfl
  pc := rfl
  storage := .of_fields rfl rfl rfl rfl rfl rfl rfl
  records := rfl
  draws := ⟨rfl, rfl⟩

theorem onlyPc_setPc (w : Word) : OnlyPc s (s.setPc w) where
  registers _ _ := rfl
  index := rfl
  storage := .of_fields rfl rfl rfl rfl rfl rfl rfl
  records := rfl
  draws := ⟨rfl, rfl⟩

theorem onlyPc_skipIf (c : Bool) : OnlyPc s (s.skipIf c) where
  registers r _ := State.skipIf_getV s c r
  index := State.skipIf_i s c
  storage := ⟨State.skipIf_readMem s c, ⟨State.skipIf_sp s c, State.skipIf_stack s c⟩,
    ⟨State.skipIf_dt s c, State.skipIf_st s c⟩, State.skipIf_cfg s c, State.skipIf_run s c⟩
  records := State.skipIf_diagnostics s c
  draws := ⟨State.skipIf_rand s c, State.skipIf_freeDraws s c⟩

theorem onlyRecords_raise (k : ErrorKind) (w : Word) : OnlyRecords s (s.raise k w) where
  registers _ _ := rfl
  index := rfl
  pc := rfl
  storage := .of_fields rfl rfl rfl rfl rfl rfl rfl
  draws := ⟨rfl, rfl⟩

/-- The record of each kind a step raises is one a step may append (60_exceptions.md R126, R127). -/
theorem Diagnostic.of_wellFormed {k : ErrorKind} (h : k = .unknownOpcode ∨ k = .stackOverflow ∨ k = .stackUnderflow)
    (pc0 w : Word) : (Diagnostic.of k pc0 w).wellFormed = true := by
  rcases h with rfl | rfl | rfl <;> simp [Diagnostic.of, Diagnostic.wellFormed]

/-! ## Transactions that cannot stop -/

@[simp] theorem transact_reset (cfg : SessionConfig) : transact (.reset cfg) s = .next (s.resetSession cfg, .none) := rfl

@[simp] theorem transact_loadProgram (bytes : List Byte) :
    transact (.loadProgram bytes) s = .next ((s.loadProgram bytes).1, .loaded (s.loadProgram bytes).2) := rfl

@[simp] theorem transact_setTimer (which : Timer) (n : Int) :
    transact (.setTimer which n) s = .next (s.setTimer which n, .none) := rfl

@[simp] theorem transact_snapshot : transact .snapshot s = .next (s, .snapshot s.snapshot) := rfl

/-! ## The reserved quirk (43_unimplemented.md R124) -/

@[simp] theorem State.withLoadStoreQuirk_v (b : Bool) : (s.withLoadStoreQuirk b).v = s.v := rfl
@[simp] theorem State.withLoadStoreQuirk_i (b : Bool) : (s.withLoadStoreQuirk b).i = s.i := rfl
@[simp] theorem State.withLoadStoreQuirk_pc (b : Bool) : (s.withLoadStoreQuirk b).pc = s.pc := rfl
@[simp] theorem State.withLoadStoreQuirk_stack (b : Bool) : (s.withLoadStoreQuirk b).stack = s.stack := rfl
@[simp] theorem State.withLoadStoreQuirk_sp (b : Bool) : (s.withLoadStoreQuirk b).sp = s.sp := rfl
@[simp] theorem State.withLoadStoreQuirk_dt (b : Bool) : (s.withLoadStoreQuirk b).dt = s.dt := rfl
@[simp] theorem State.withLoadStoreQuirk_st (b : Bool) : (s.withLoadStoreQuirk b).st = s.st := rfl
@[simp] theorem State.withLoadStoreQuirk_mem (b : Bool) : (s.withLoadStoreQuirk b).mem = s.mem := rfl
@[simp] theorem State.withLoadStoreQuirk_run (b : Bool) : (s.withLoadStoreQuirk b).run = s.run := rfl
@[simp] theorem State.withLoadStoreQuirk_diagnostics (b : Bool) : (s.withLoadStoreQuirk b).diagnostics = s.diagnostics := rfl
@[simp] theorem State.withLoadStoreQuirk_rand (b : Bool) : (s.withLoadStoreQuirk b).rand = s.rand := rfl
@[simp] theorem State.withLoadStoreQuirk_freeDraws (b : Bool) : (s.withLoadStoreQuirk b).freeDraws = s.freeDraws := rfl
@[simp] theorem State.withLoadStoreQuirk_shiftSourceVy (b : Bool) :
    (s.withLoadStoreQuirk b).cfg.shiftSourceVy = s.cfg.shiftSourceVy := rfl
@[simp] theorem State.withLoadStoreQuirk_stEqualsBuzzer (b : Bool) :
    (s.withLoadStoreQuirk b).cfg.stEqualsBuzzer = s.cfg.stEqualsBuzzer := rfl
@[simp] theorem State.withLoadStoreQuirk_cyclesPerFrame (b : Bool) :
    (s.withLoadStoreQuirk b).cfg.cyclesPerFrame = s.cfg.cyclesPerFrame := rfl
@[simp] theorem State.withLoadStoreQuirk_getV (b : Bool) (r : Nibble) :
    (s.withLoadStoreQuirk b).getV r = s.getV r := rfl

end Sys2Proof.Machine
end

