-- ==== Sys2Proof/Laws/PerInstr.lean ====
section
/-!
SUPPORT. Statements made per instruction: one lemma per constructor of Instr.
-/

namespace Sys2Proof.Laws.EncodeFitsRow

/-- The word of an instruction lies in the row of the opcode map the spec gives it (30_encoding.md R70). -/
def Statement (i : Instr) : Prop := i.row.selects (encode i) = true

theorem of_mask {i : Instr} (h : encode i &&& i.row.mask = i.row.pattern) : Statement i := by
  simp [Statement, OpcodeRow.selects, h]

theorem nop : Statement .nop := of_mask (by decide)
theorem unimpl00E0 : Statement .unimpl00E0 := of_mask (by decide)
theorem ret : Statement .ret := of_mask (by decide)
theorem jp (nnn : Addr) : Statement (.jp nnn) :=
  of_mask (by simp only [encode, Instr.row, BitVec.ofNat_eq_ofNat, mask_F000]; simp; rfl)
theorem call (nnn : Addr) : Statement (.call nnn) :=
  of_mask (by simp only [encode, Instr.row, BitVec.ofNat_eq_ofNat, mask_F000]; simp; rfl)
theorem seImm (x : Nibble) (kk : Byte) : Statement (.seImm x kk) :=
  of_mask (by simp only [encode, Instr.row, BitVec.ofNat_eq_ofNat, mask_F000]; simp; rfl)
theorem sneImm (x : Nibble) (kk : Byte) : Statement (.sneImm x kk) :=
  of_mask (by simp only [encode, Instr.row, BitVec.ofNat_eq_ofNat, mask_F000]; simp; rfl)
theorem seReg (x y : Nibble) : Statement (.seReg x y) :=
  of_mask (by simp only [encode, Instr.row, BitVec.ofNat_eq_ofNat, mask_F00F]; simp; rfl)
theorem ldImm (x : Nibble) (kk : Byte) : Statement (.ldImm x kk) :=
  of_mask (by simp only [encode, Instr.row, BitVec.ofNat_eq_ofNat, mask_F000]; simp; rfl)
theorem addImm (x : Nibble) (kk : Byte) : Statement (.addImm x kk) :=
  of_mask (by simp only [encode, Instr.row, BitVec.ofNat_eq_ofNat, mask_F000]; simp; rfl)
theorem ldReg (x y : Nibble) : Statement (.ldReg x y) :=
  of_mask (by simp only [encode, Instr.row, BitVec.ofNat_eq_ofNat, mask_F00F]; simp; rfl)
theorem or (x y : Nibble) : Statement (.or x y) :=
  of_mask (by simp only [encode, Instr.row, BitVec.ofNat_eq_ofNat, mask_F00F]; simp; rfl)
theorem and (x y : Nibble) : Statement (.and x y) :=
  of_mask (by simp only [encode, Instr.row, BitVec.ofNat_eq_ofNat, mask_F00F]; simp; rfl)
theorem xor (x y : Nibble) : Statement (.xor x y) :=
  of_mask (by simp only [encode, Instr.row, BitVec.ofNat_eq_ofNat, mask_F00F]; simp; rfl)
theorem addReg (x y : Nibble) : Statement (.addReg x y) :=
  of_mask (by simp only [encode, Instr.row, BitVec.ofNat_eq_ofNat, mask_F00F]; simp; rfl)
theorem sub (x y : Nibble) : Statement (.sub x y) :=
  of_mask (by simp only [encode, Instr.row, BitVec.ofNat_eq_ofNat, mask_F00F]; simp; rfl)
theorem shr (x y : Nibble) : Statement (.shr x y) :=
  of_mask (by simp only [encode, Instr.row, BitVec.ofNat_eq_ofNat, mask_F00F]; simp; rfl)
theorem subn (x y : Nibble) : Statement (.subn x y) :=
  of_mask (by simp only [encode, Instr.row, BitVec.ofNat_eq_ofNat, mask_F00F]; simp; rfl)
theorem shl (x y : Nibble) : Statement (.shl x y) :=
  of_mask (by simp only [encode, Instr.row, BitVec.ofNat_eq_ofNat, mask_F00F]; simp; rfl)
theorem sneReg (x y : Nibble) : Statement (.sneReg x y) :=
  of_mask (by simp only [encode, Instr.row, BitVec.ofNat_eq_ofNat, mask_F00F]; simp; rfl)
theorem ldI (nnn : Addr) : Statement (.ldI nnn) :=
  of_mask (by simp only [encode, Instr.row, BitVec.ofNat_eq_ofNat, mask_F000]; simp; rfl)
theorem jpV0 (nnn : Addr) : Statement (.jpV0 nnn) :=
  of_mask (by simp only [encode, Instr.row, BitVec.ofNat_eq_ofNat, mask_F000]; simp; rfl)
theorem rnd (x : Nibble) (kk : Byte) : Statement (.rnd x kk) :=
  of_mask (by simp only [encode, Instr.row, BitVec.ofNat_eq_ofNat, mask_F000]; simp; rfl)
theorem unimplDXYN (x y n : Nibble) : Statement (.unimplDXYN x y n) :=
  of_mask (by simp only [encode, Instr.row, BitVec.ofNat_eq_ofNat, mask_F000]; simp; rfl)
theorem unimplEX9E (x : Nibble) : Statement (.unimplEX9E x) :=
  of_mask (by simp only [encode, Instr.row, BitVec.ofNat_eq_ofNat, mask_F0FF]; simp; rfl)
theorem unimplEXA1 (x : Nibble) : Statement (.unimplEXA1 x) :=
  of_mask (by simp only [encode, Instr.row, BitVec.ofNat_eq_ofNat, mask_F0FF]; simp; rfl)
theorem unimplFX07 (x : Nibble) : Statement (.unimplFX07 x) :=
  of_mask (by simp only [encode, Instr.row, BitVec.ofNat_eq_ofNat, mask_F0FF]; simp; rfl)
theorem unimplFX0A (x : Nibble) : Statement (.unimplFX0A x) :=
  of_mask (by simp only [encode, Instr.row, BitVec.ofNat_eq_ofNat, mask_F0FF]; simp; rfl)
theorem unimplFX15 (x : Nibble) : Statement (.unimplFX15 x) :=
  of_mask (by simp only [encode, Instr.row, BitVec.ofNat_eq_ofNat, mask_F0FF]; simp; rfl)
theorem unimplFX18 (x : Nibble) : Statement (.unimplFX18 x) :=
  of_mask (by simp only [encode, Instr.row, BitVec.ofNat_eq_ofNat, mask_F0FF]; simp; rfl)
theorem unimplFX1E (x : Nibble) : Statement (.unimplFX1E x) :=
  of_mask (by simp only [encode, Instr.row, BitVec.ofNat_eq_ofNat, mask_F0FF]; simp; rfl)
theorem unimplFX29 (x : Nibble) : Statement (.unimplFX29 x) :=
  of_mask (by simp only [encode, Instr.row, BitVec.ofNat_eq_ofNat, mask_F0FF]; simp; rfl)
theorem unimplFX33 (x : Nibble) : Statement (.unimplFX33 x) :=
  of_mask (by simp only [encode, Instr.row, BitVec.ofNat_eq_ofNat, mask_F0FF]; simp; rfl)
theorem unimplFX55 (x : Nibble) : Statement (.unimplFX55 x) :=
  of_mask (by simp only [encode, Instr.row, BitVec.ofNat_eq_ofNat, mask_F0FF]; simp; rfl)
theorem unimplFX65 (x : Nibble) : Statement (.unimplFX65 x) :=
  of_mask (by simp only [encode, Instr.row, BitVec.ofNat_eq_ofNat, mask_F0FF]; simp; rfl)

/-- Every instruction's word lies in its row. -/
theorem holds (i : Instr) : Statement i := by
  cases i with
  | nop => exact EncodeFitsRow.nop
  | unimpl00E0 => exact EncodeFitsRow.unimpl00E0
  | ret => exact EncodeFitsRow.ret
  | jp nnn => exact EncodeFitsRow.jp nnn
  | call nnn => exact EncodeFitsRow.call nnn
  | seImm x kk => exact EncodeFitsRow.seImm x kk
  | sneImm x kk => exact EncodeFitsRow.sneImm x kk
  | seReg x y => exact EncodeFitsRow.seReg x y
  | ldImm x kk => exact EncodeFitsRow.ldImm x kk
  | addImm x kk => exact EncodeFitsRow.addImm x kk
  | ldReg x y => exact EncodeFitsRow.ldReg x y
  | or x y => exact EncodeFitsRow.or x y
  | and x y => exact EncodeFitsRow.and x y
  | xor x y => exact EncodeFitsRow.xor x y
  | addReg x y => exact EncodeFitsRow.addReg x y
  | sub x y => exact EncodeFitsRow.sub x y
  | shr x y => exact EncodeFitsRow.shr x y
  | subn x y => exact EncodeFitsRow.subn x y
  | shl x y => exact EncodeFitsRow.shl x y
  | sneReg x y => exact EncodeFitsRow.sneReg x y
  | ldI nnn => exact EncodeFitsRow.ldI nnn
  | jpV0 nnn => exact EncodeFitsRow.jpV0 nnn
  | rnd x kk => exact EncodeFitsRow.rnd x kk
  | unimplDXYN x y n => exact EncodeFitsRow.unimplDXYN x y n
  | unimplEX9E x => exact EncodeFitsRow.unimplEX9E x
  | unimplEXA1 x => exact EncodeFitsRow.unimplEXA1 x
  | unimplFX07 x => exact EncodeFitsRow.unimplFX07 x
  | unimplFX0A x => exact EncodeFitsRow.unimplFX0A x
  | unimplFX15 x => exact EncodeFitsRow.unimplFX15 x
  | unimplFX18 x => exact EncodeFitsRow.unimplFX18 x
  | unimplFX1E x => exact EncodeFitsRow.unimplFX1E x
  | unimplFX29 x => exact EncodeFitsRow.unimplFX29 x
  | unimplFX33 x => exact EncodeFitsRow.unimplFX33 x
  | unimplFX55 x => exact EncodeFitsRow.unimplFX55 x
  | unimplFX65 x => exact EncodeFitsRow.unimplFX65 x

end Sys2Proof.Laws.EncodeFitsRow
end

