-- ==== Sys2Proof/Tests/Slice0.lean ====
section
/-!
SUPPORT. The model's own tests: expected values are those of spec/95_test_vectors.md, named by their ids there, or are
worked out from the rule named; and, for each statement of Certificates/Slice0/Obligations.lean with hypotheses, concrete
states and operands that meet them (theorems `witness_…`).
-/

namespace Sys2Proof.Tests

open Sys2Proof.Machine

/-- A state after reset with PC and some registers set. -/
def setup (pc : Word) (regs : List (Nibble × Byte)) : State :=
  regs.foldl (fun s p => s.setV p.1 p.2) { State.reset with pc := pc }

/-- What `f` shows after one step that runs `w`. -/
def after {α : Type} (s : State) (w : Nat) (f : State → α) : Option α :=
  match step (s.withFetchWord 16 w) with
  | .next t => some (f t)
  | _ => none

/-- What `f` shows after a session. -/
def afterSession {α : Type} (trs : List Transaction) (s : State) (f : State × List Response → α) : Option α :=
  match runSession trs s with
  | .next p => some (f p)
  | _ => none

/-- Registers of a state. -/
def shown (rs : List Nibble) (s : State) : List Byte := rs.map s.getV

/-- A state with `n` entries 0x300 on the stack. -/
def stacked (pc : Word) (n : Fin 17) : State :=
  { State.reset with pc := pc, sp := n, stack := Vector.replicate 16 0x0300 }

/-- A state with SHR and SHL reading V[Y]. -/
def quirkVy (s : State) : State := { s with cfg := { s.cfg with shiftSourceVy := true } }

/-! ## WellFormed: an ill-formed term for each group of the unknown space (30_encoding.md R71) -/

theorem test_wellFormed_refuses_group0 :
    ([0x0000, 0x00E0, 0x00EE] : List Word).all (fun w => !(Descriptor.unknown w).wellFormed) = true := by decide

theorem test_wellFormed_refuses_group5 :
    ([0x5120] : List Word).all (fun w => !(Descriptor.unknown w).wellFormed) = true := by decide

theorem test_wellFormed_refuses_group8 :
    ([0x8AB0, 0x8AB4, 0x8ABE] : List Word).all (fun w => !(Descriptor.unknown w).wellFormed) = true := by decide

theorem test_wellFormed_refuses_group9 :
    ([0x9120] : List Word).all (fun w => !(Descriptor.unknown w).wellFormed) = true := by decide

theorem test_wellFormed_refuses_groupE :
    ([0xE19E, 0xE1A1] : List Word).all (fun w => !(Descriptor.unknown w).wellFormed) = true := by decide

theorem test_wellFormed_refuses_groupF :
    ([0xF107, 0xF165] : List Word).all (fun w => !(Descriptor.unknown w).wellFormed) = true := by decide

theorem test_wellFormed_refuses_outside :
    ([0x1234, 0xD125] : List Word).all (fun w => !(Descriptor.unknown w).wellFormed) = true := by decide

theorem test_wellFormed_accepts_each_group :
    ([0x0123, 0x5121, 0x8AB8, 0x9121, 0xE19F, 0xF108] : List Word).all (fun w => (Descriptor.unknown w).wellFormed) =
      true := by decide

/-! ## Decoding a word of each constructor (95_test_vectors.md 2.1) -/

theorem test_decode_nop : decode 0x0000 = .instr (.nop) := by decide
theorem test_decode_unimpl00E0 : decode 0x00E0 = .instr (.unimpl00E0) := by decide
theorem test_decode_ret : decode 0x00EE = .instr (.ret) := by decide
theorem test_decode_jp : decode 0x1ABC = .instr (.jp 0xABC) := by decide
theorem test_decode_call : decode 0x2F00 = .instr (.call 0xF00) := by decide
theorem test_decode_seImm : decode 0x3A7F = .instr (.seImm 0xA 0x7F) := by decide
theorem test_decode_sneImm : decode 0x4B00 = .instr (.sneImm 0xB 0x00) := by decide
theorem test_decode_seReg : decode 0x5120 = .instr (.seReg 0x1 0x2) := by decide
theorem test_decode_ldImm : decode 0x6F12 = .instr (.ldImm 0xF 0x12) := by decide
theorem test_decode_addImm : decode 0x7EFF = .instr (.addImm 0xE 0xFF) := by decide
theorem test_decode_ldReg : decode 0x8AB0 = .instr (.ldReg 0xA 0xB) := by decide
theorem test_decode_or : decode 0x8AB1 = .instr (.or 0xA 0xB) := by decide
theorem test_decode_and : decode 0x8AB2 = .instr (.and 0xA 0xB) := by decide
theorem test_decode_xor : decode 0x8AB3 = .instr (.xor 0xA 0xB) := by decide
theorem test_decode_addReg : decode 0x8AB4 = .instr (.addReg 0xA 0xB) := by decide
theorem test_decode_sub : decode 0x8AB5 = .instr (.sub 0xA 0xB) := by decide
theorem test_decode_shr : decode 0x8AB6 = .instr (.shr 0xA 0xB) := by decide
theorem test_decode_subn : decode 0x8AB7 = .instr (.subn 0xA 0xB) := by decide
theorem test_decode_shl : decode 0x8ABE = .instr (.shl 0xA 0xB) := by decide
theorem test_decode_sneReg : decode 0x9120 = .instr (.sneReg 0x1 0x2) := by decide
theorem test_decode_ldI : decode 0xA123 = .instr (.ldI 0x123) := by decide
theorem test_decode_jpV0 : decode 0xB123 = .instr (.jpV0 0x123) := by decide
theorem test_decode_rnd : decode 0xC3FF = .instr (.rnd 0x3 0xFF) := by decide
theorem test_decode_unimplDXYN : decode 0xD125 = .instr (.unimplDXYN 0x1 0x2 0x5) := by decide
theorem test_decode_unimplEX9E : decode 0xE19E = .instr (.unimplEX9E 0x1) := by decide
theorem test_decode_unimplEXA1 : decode 0xE1A1 = .instr (.unimplEXA1 0x1) := by decide
theorem test_decode_unimplFX07 : decode 0xF107 = .instr (.unimplFX07 0x1) := by decide
theorem test_decode_unimplFX0A : decode 0xF10A = .instr (.unimplFX0A 0x1) := by decide
theorem test_decode_unimplFX15 : decode 0xF115 = .instr (.unimplFX15 0x1) := by decide
theorem test_decode_unimplFX18 : decode 0xF118 = .instr (.unimplFX18 0x1) := by decide
theorem test_decode_unimplFX1E : decode 0xF11E = .instr (.unimplFX1E 0x1) := by decide
theorem test_decode_unimplFX29 : decode 0xF129 = .instr (.unimplFX29 0x1) := by decide
theorem test_decode_unimplFX33 : decode 0xF133 = .instr (.unimplFX33 0x1) := by decide
theorem test_decode_unimplFX55 : decode 0xF155 = .instr (.unimplFX55 0x1) := by decide
theorem test_decode_unimplFX65 : decode 0xF165 = .instr (.unimplFX65 0x1) := by decide

theorem test_decode_unknown :
    ([0x00E1, 0x0123, 0x0FFF, 0x5121, 0x8AB8, 0x8AB9, 0x8ABA, 0x8ABB, 0x8ABC, 0x8ABD, 0x8ABF, 0x912F, 0xE000, 0xE1A2,
      0xE19F, 0xF000, 0xF175, 0xF108, 0xFFFF] : List Word).all (fun w => decode w == .unknown w) = true := by decide

/-- E9. -/
theorem test_encode_E9 :
    encode (.addReg 0x3 0xA) = 0x83A4 ∧ encode (.shr 0x1 0x2) = 0x8126 ∧ encode (.jpV0 0x3C4) = 0xB3C4 ∧
      encodeDescriptor (.unknown 0x5121) = 0x5121 := by decide

theorem test_decodeTableWord : decodeTableWord 16 0x83A4 = some (.addReg 0x3 0xA) ∧ decodeTableWord 16 0x5121 = none := by
  decide

/-- A word is two bytes, the high byte first; the rest is left over, and one byte is no word (R72). -/
theorem test_decodeBytes :
    decodeBytes [0x12, 0x34, 0x56] = some (.instr (.jp 0x234), [0x56]) ∧ decodeBytes [0x12] = none := by decide

theorem test_assemble :
    assemble ⟨.jp, [.v 0x0, .addr 0x20A]⟩ = some 0xB20A ∧ assemble ⟨.jp, [.v 0x1, .addr 0x20A]⟩ = none ∧
      assemble ⟨.word, [.word 0xF007]⟩ = some 0xF007 := by decide

theorem test_assembler_text :
    (disassemble (.instr (.ldImm 0xA 0xAA))).text = "LD VA, 0xAA" ∧
      (disassemble (.instr (.ldI 0x2F0))).text = "LD I, 0x2F0" := by decide

/-! ## Control flow (2.2) -/

/-- CTL1. -/
theorem test_nop : after (setup 0x204 []) 0x0000 (fun t => (t.pc, t.diagnostics)) = some (0x206, []) := by decide

/-- CTL2. -/
theorem test_ret :
    after { State.reset with pc := 0x20C, sp := 1, stack := (Vector.replicate 16 0).set 0 0x204 } 0x00EE
      (fun t => (t.pc, t.sp, t.stack[0])) = some (0x204, 0, 0x204) := by decide

/-- CTL3. -/
theorem test_ret_empty :
    after (setup 0x300 []) 0x00EE (fun t => (t.pc, t.sp, t.diagnostics)) =
      some (0x302, 0, [{ code := 3, kind := .stackUnderflow, pc := 0x300, word := 0x00EE }]) := by decide

/-- CTL4. -/
theorem test_jp : after (setup 0x20A []) 0x120E (·.pc) = some 0x20E := by decide
/-- CTL5. -/
theorem test_jp_self : after (setup 0x20A []) 0x120A (fun t => (t.pc, t.run)) = some (0x20A, .running) := by decide

/-- CTL7: the pushed PC is not masked. -/
theorem test_call :
    after (setup 0xFFE []) 0x2300 (fun t => (t.pc, t.sp, t.stack[0])) = some (0x300, 1, 0x1000) := by decide

/-- CTL8. -/
theorem test_call_full :
    after (stacked 0x208 16) 0x2204 (fun t => (t.pc, t.sp, t.stack, t.diagnostics)) =
      some (0x20A, 16, Vector.replicate 16 0x0300,
        [{ code := 2, kind := .stackOverflow, pc := 0x208, word := 0x2204 }]) := by decide

/-- CTL9. -/
theorem test_seImm : after (setup 0x200 [(0x3, 0x42)]) 0x3342 (·.pc) = some 0x204 := by decide
/-- CTL10. -/
theorem test_seImm_not_taken : after (setup 0x200 [(0x3, 0x41)]) 0x3342 (·.pc) = some 0x202 := by decide
/-- CTL11. -/
theorem test_sneImm : after (setup 0x208 [(0x1, 0x04)]) 0x4100 (·.pc) = some 0x20C := by decide
/-- CTL12. -/
theorem test_sneImm_not_taken : after (setup 0x208 []) 0x4100 (·.pc) = some 0x20A := by decide
/-- CTL13. -/
theorem test_seReg : after (setup 0x300 [(0x1, 0x07), (0x2, 0x07)]) 0x5120 (·.pc) = some 0x304 := by decide
/-- CTL14. -/
theorem test_seReg_not_taken : after (setup 0x300 [(0x1, 0x07), (0x2, 0x08)]) 0x5120 (·.pc) = some 0x302 := by decide
/-- CTL16. -/
theorem test_sneReg : after (setup 0x300 [(0x1, 0x07), (0x2, 0x08)]) 0x9120 (·.pc) = some 0x304 := by decide
/-- CTL17. -/
theorem test_sneReg_same : after (setup 0x300 [(0x4, 0x99)]) 0x9440 (·.pc) = some 0x302 := by decide

/-! ## Loads and arithmetic (2.3) -/

/-- ALU1. -/
theorem test_ldImm : after (setup 0x200 [(0x0, 0x00)]) 0x6005 (shown [0x0]) = some [0x05] := by decide
/-- ALU4. -/
theorem test_addImm : after (setup 0x200 [(0x1, 0xFF), (0xF, 0x00)]) 0x7101 (shown [0x1, 0xF]) = some [0x00, 0x00] := by decide
/-- ALU6. -/
theorem test_ldReg : after (setup 0x200 [(0x1, 0x00), (0x2, 0x9C)]) 0x8120 (shown [0x1, 0x2]) = some [0x9C, 0x9C] := by decide
/-- ALU7. -/
theorem test_or : after (setup 0x200 [(0x1, 0x0F), (0x2, 0xF0), (0xF, 0x01)]) 0x8121 (shown [0x1, 0xF]) = some [0xFF, 0x01] := by decide
/-- ALU8. -/
theorem test_and : after (setup 0x200 [(0x1, 0x3C), (0x2, 0x0F), (0xF, 0x01)]) 0x8122 (shown [0x1, 0xF]) = some [0x0C, 0x01] := by decide
/-- ALU35. -/
theorem test_and_flag_register : after (setup 0x200 [(0xF, 0x01), (0x1, 0xF0)]) 0x8F12 (shown [0xF]) = some [0x00] := by decide
/-- ALU9. -/
theorem test_xor : after (setup 0x200 [(0x1, 0x3C), (0x2, 0x0F), (0xF, 0x01)]) 0x8123 (shown [0x1, 0xF]) = some [0x33, 0x01] := by decide
/-- ALU12. -/
theorem test_addReg : after (setup 0x200 [(0x1, 0xFF), (0x2, 0xFF)]) 0x8124 (shown [0x1, 0xF]) = some [0xFE, 0x01] := by decide
/-- ALU30. -/
theorem test_addReg_flag_register : after (setup 0x200 [(0xF, 0x01), (0xE, 0xFF)]) 0x8FE4 (shown [0xF]) = some [0x01] := by decide
/-- ALU29. -/
theorem test_addReg_flag_source : after (setup 0x200 [(0x1, 0x10), (0xF, 0x01)]) 0x81F4 (shown [0x1, 0xF]) = some [0x11, 0x00] := by decide
/-- ALU15. -/
theorem test_sub_equal : after (setup 0x200 [(0x1, 0x10), (0x2, 0x10)]) 0x8125 (shown [0x1, 0xF]) = some [0x00, 0x01] := by decide
/-- ALU17. -/
theorem test_sub_borrow : after (setup 0x200 [(0x1, 0x10), (0x2, 0x20)]) 0x8125 (shown [0x1, 0xF]) = some [0xF0, 0x00] := by decide
/-- ALU18. -/
theorem test_subn : after (setup 0x200 [(0x1, 0x10), (0x2, 0x20)]) 0x8127 (shown [0x1, 0xF]) = some [0x10, 0x01] := by decide
/-- ALU19. -/
theorem test_subn_borrow : after (setup 0x200 [(0x1, 0x01), (0x2, 0x00)]) 0x8127 (shown [0x1, 0xF]) = some [0xFF, 0x00] := by decide
/-- ALU21. -/
theorem test_shr : after (setup 0x200 [(0x1, 0x80), (0x2, 0x01)]) 0x8126 (shown [0x1, 0xF]) = some [0x40, 0x00] := by decide
/-- ALU22. -/
theorem test_shr_quirk : after (quirkVy (setup 0x200 [(0x1, 0x80), (0x2, 0x01)])) 0x8126 (shown [0x1, 0xF]) = some [0x00, 0x01] := by decide
/-- ALU25. -/
theorem test_shl : after (setup 0x200 [(0x1, 0x81), (0x2, 0x01)]) 0x812E (shown [0x1, 0xF]) = some [0x02, 0x01] := by decide
/-- ALU26. -/
theorem test_shl_quirk : after (quirkVy (setup 0x200 [(0x1, 0x81), (0x2, 0x01)])) 0x812E (shown [0x1, 0xF]) = some [0x02, 0x00] := by decide

/-! ## Index, indexed jump, random (2.4) -/

/-- IJR2. -/
theorem test_ldI : after (setup 0x200 []) 0xAFFF (fun t => (t.i, t.pc)) = some (0xFFF, 0x202) := by decide
/-- IJR5. -/
theorem test_jpV0_wraps : after (setup 0x200 [(0x0, 0xFF)]) 0xBF80 (·.pc) = some 0x07F := by decide
/-- IJR3. -/
theorem test_jpV0_high_nibble_is_no_register : after (setup 0x200 [(0x0, 0x04), (0x2, 0x55)]) 0xB20A (·.pc) = some 0x20E := by decide
/-- IJR8: the drawn byte is masked and taken from the supplied ones. -/
theorem test_rnd :
    after { State.reset with rand := [0xB7, 0x11] } 0xC30F (fun t => (t.getV 0x3, t.rand)) = some (0x07, [0x11]) := by
  decide

/-- IJR9: with a zero mask the result is 0 whatever is drawn. -/
theorem test_rnd_zero_mask (s : State) : ∃ t, exec (.rnd 0x4 0x00) s = .next t ∧ t.getV 0x4 = 0x00 :=
  ⟨_, rfl, by simp⟩

/-- IJR11: two draws in one tick, in order. -/
theorem test_rnd_twice :
    afterSession [.loadProgram [0xC5, 0xF0, 0xC6, 0x0F], .tick [0x12, 0x34] false]
      { State.reset with cfg := { Config.resetSession with cyclesPerFrame := 2 } } (fun p => shown [0x5, 0x6] p.1) =
      some [0x10, 0x04] := by decide

/-! ## Unimplemented and unknown words (2.5) -/

/-- Every register, I, the timers and memory's first listed bytes of a state; what UNK1 to UNK18 say is unchanged. -/
def kept (t : State) : List Byte × Word × Byte × Byte × Fin 17 × List Byte :=
  (t.v.toList, t.i, t.dt, t.st, t.sp, [0x300, 0x301, 0x302].map t.readMem)

/-- A state in which every conventional effect of an unimplemented opcode would show. -/
def busy : State :=
  { (setup 0x200 [(0x0, 0x7B), (0x1, 0x02), (0x2, 0x01), (0x3, 0x10), (0xF, 0x01)]) with
    i := 0x300, dt := 0x05, st := 0x02, mem := [(0x300, 0xAA)] }

/-- The PC and the one record an unimplemented or unknown word leaves, and whether all of `kept` is as before. -/
def reported (s : State) (w : Nat) : Bool :=
  after s w (fun t => (t.pc, t.diagnostics, kept t)) ==
    some (s.pc + 2, [{ code := 1, kind := .unknownOpcode, pc := s.pc, word := BitVec.ofNat 16 w }], kept s)

theorem test_unimpl00E0 : reported busy 0x00E0 = true := by decide
theorem test_unimplDXYN : reported busy 0xD125 = true := by decide
theorem test_unimplEX9E : reported busy 0xE19E = true := by decide
theorem test_unimplEXA1 : reported busy 0xE1A1 = true := by decide
theorem test_unimplFX07 : reported busy 0xF007 = true := by decide
theorem test_unimplFX0A : reported busy 0xF30A = true := by decide
theorem test_unimplFX15 : reported busy 0xF015 = true := by decide
theorem test_unimplFX18 : reported busy 0xF018 = true := by decide
theorem test_unimplFX1E : reported busy 0xF11E = true := by decide
theorem test_unimplFX29 : reported busy 0xF229 = true := by decide
theorem test_unimplFX33 : reported busy 0xF033 = true := by decide
theorem test_unimplFX55 : reported busy 0xF355 = true := by decide
theorem test_unimplFX65 : reported busy 0xF065 = true := by decide

/-- UNK14 to UNK17. -/
theorem test_unknown_words : [0x0123, 0x5121, 0x8128, 0xF000].all (reported busy) = true := by decide

/-! ## Fetch (2.6) -/

/-- MEM2: the second byte of a fetch at 0xFFF wraps to 0x000. -/
theorem test_fetch_wraps :
    (({ State.reset with pc := 0xFFF, mem := [(0xFFF, 0x12)] } : State).fetchWord = 0x1200) ∧
      after (setup 0xFFF []) 0x1200 (fun t => (t.pc, t.mem)) = some (0x200, [(0xFFF, 0x12)]) := by decide

/-- MEM3, MEM6: PC is not masked, and wraps modulo 2^16. -/
theorem test_pc_wraps :
    after (setup 0xFFE []) 0x0000 (·.pc) = some 0x1000 ∧ after (setup 0xFFFE []) 0x0000 (·.pc) = some 0x0000 := by
  decide

/-- MEM5: an odd PC is no error. -/
theorem test_odd_pc : after (setup 0x201 []) 0x6007 (fun t => (t.getV 0x0, t.pc)) = some (0x07, 0x203) := by decide

/-- `withFetchWord` stores the word, high byte first, where the step fetches; a word 0x0000 lists nothing. -/
theorem test_withFetchWord :
    (State.reset.withFetchWord 16 0x1234).mem = [(0x200, 0x12), (0x201, 0x34)] ∧
      State.reset.withFetchWord 16 0x0000 = State.reset := by decide

/-! ## Program load, tick, timers (2.7, 2.8) -/

/-- RST5. -/
theorem test_load_twice :
    afterSession [.loadProgram [0x12, 0x34], .loadProgram [0xAB]] State.reset (fun p => (p.1.mem, p.2)) =
      some ([(0x200, 0xAB), (0x201, 0x34)], [.loaded .ok, .loaded .ok]) := by decide

/-- RST6. -/
theorem test_tick_without_program :
    afterSession [.tick [] false] { State.reset with cfg := { Config.resetSession with cyclesPerFrame := 4 } }
      (fun p => (p.1.pc, p.2)) =
      some (0x208, [.frame { instructionsExecuted := 4, buzzerActive := false, diagnostics := [] }]) := by decide

/-- TMR3. -/
theorem test_buzzer :
    afterSession [.setTimer .sound 2, .tick [] true, .tick [] true] State.reset (fun p => (p.1.st, p.2)) =
      some (0x00, [.none, .frame { instructionsExecuted := 1, buzzerActive := true, diagnostics := [] },
        .frame { instructionsExecuted := 1, buzzerActive := false, diagnostics := [] }]) := by decide

/-- TMR6. -/
theorem test_buzzer_external :
    afterSession [.tick [] true] { State.reset with cfg := { Config.resetSession with stEqualsBuzzer := false } }
      (·.2) = some [.frame { instructionsExecuted := 1, buzzerActive := true, diagnostics := [] }] := by decide

/-- TMR7, TMR8. -/
theorem test_timer_clamps : clampByte 300 = 0xFF ∧ clampByte (-5) = 0x00 ∧ clampByte 255 = 0xFF := by decide

/-- TMR11: no decrement while Halted. -/
theorem test_halted_tick :
    afterSession [.tick [] false] { State.reset with run := .halted, st := 0x03 } (fun p => (p.1.st, p.1.pc, p.2)) =
      some (0x03, 0x200, [.frame { instructionsExecuted := 0, buzzerActive := true, diagnostics := [] }]) := by decide

/-- The first tick of P6: two errors, and the core goes on. -/
theorem test_P6_first_tick :
    afterSession [.loadProgram [0x51, 0x21, 0xF0, 0x07, 0x81, 0x28, 0x12, 0x06], .setTimer .delay 2, .setTimer .sound 3,
        .tick [] false] { State.reset with cfg := { Config.resetSession with cyclesPerFrame := 2 } }
      (fun p => (p.1.pc, p.1.dt, p.1.st, p.2.getLast?)) =
      some (0x204, 1, 2, some (.frame { instructionsExecuted := 2, buzzerActive := true, diagnostics :=
        [{ code := 1, kind := .unknownOpcode, pc := 0x200, word := 0x5121 },
         { code := 1, kind := .unknownOpcode, pc := 0x202, word := 0xF007 }] })) := by decide

/-! ## Witnesses: the hypotheses of each statement are met -/

theorem reset_inv : State.reset.Inv := ⟨by decide, by decide, by simp [State.reset, State.resetWith]⟩

theorem witness_DecodeAndEncodeAreInverse :
    (Descriptor.instr (.unimplDXYN 0xF 0xF 0xF)).wellFormed = true ∧ (Descriptor.unknown 0xFFFF).wellFormed = true := by
  decide

/-- The fetched bytes at the top of memory decode to an instruction. -/
theorem witness_StepRunsDecodedInstruction :
    let s := (setup 0xFFFF []).withFetchWord 16 0xBFFF
    s.run = .running ∧ decode (s.readMem s.pc.toNat ++ s.readMem (s.pc.toNat + 1)) = .instr (.jpV0 0xFFF) := by decide

theorem witness_StepReportsUnknownWord :
    let s := (setup 0xFFFF []).withFetchWord 16 0xFFFF
    s.run = .running ∧ decode (s.readMem s.pc.toNat ++ s.readMem (s.pc.toNat + 1)) = .unknown 0xFFFF := by decide

theorem witness_HaltedStepChangesNothing : ({ State.reset with run := .halted } : State).run = .halted := by decide

/-- For the statements about a next state of a step: one exists, from a state that meets the invariant. -/
theorem witness_step_from_reset : ∃ t, State.reset.run = .running ∧ State.reset.Inv ∧ step State.reset = .next t :=
  ⟨_, rfl, reset_inv, rfl⟩

/-- A clause of StepMovesPcByTheTable at each end of the stack's depth, and of RaisingStepIsPrecise where it raises. -/
theorem witness_StepMovesPcByTheTable_stack :
    after (stacked 0x208 15) 0x2204 (fun t => (t.pc, t.sp)) = some (0x204, 16) ∧
      after (stacked 0x208 16) 0x2204 (fun t => (t.pc, t.sp)) = some (0x20A, 16) ∧
      after (stacked 0x208 16) 0x00EE (fun t => (t.pc, t.sp)) = some (0x300, 15) ∧
      after (stacked 0x208 0) 0x00EE (fun t => (t.pc, t.sp)) = some (0x20A, 0) := by decide

theorem witness_RaisingStepIsPrecise :
    State.reset.stepRaises = none ∧ ((stacked 0x208 16).withFetchWord 16 0x2204).stepRaises = some .stackOverflow ∧
      ((stacked 0x208 0).withFetchWord 16 0x00EE).stepRaises = some .stackUnderflow ∧
      (busy.withFetchWord 16 0xF165).stepRaises = some .unknownOpcode ∧
      (busy.withFetchWord 16 0x5121).stepRaises = some .unknownOpcode := by decide

theorem witness_StepReadsOnlyTheFetchedBytes :
    Memory.read [(0x000, 0x11), (0x202, 0xFF)] 0x200 = State.reset.readMem 0x200 ∧
      Memory.read [(0x000, 0x11), (0x202, 0xFF)] 0x201 = State.reset.readMem 0x201 := by decide

theorem witness_NopOnlyAdvancesPc : State.reset.run = .running ∧ State.reset.fetchWord = 0x0000 := by decide

theorem witness_CallPushesReturnAddress :
    (stacked 0x200 0).sp.val < 16 ∧ (stacked 0x200 15).sp.val < 16 := by decide

theorem witness_CallOnFullStackReports : (stacked 0x200 16).sp.val = 16 := by decide

theorem witness_RetPopsReturnAddress : 0 < (stacked 0x200 1).sp.val ∧ 0 < (stacked 0x200 16).sp.val := by decide

theorem witness_RetOnEmptyStackReports : State.reset.sp.val = 0 := by decide

/-- As many calls as the stack has room for. -/
theorem witness_NestedCallsReturnInOrder :
    State.reset.sp.val + (List.replicate 16 (0x204 : Addr)).length ≤ 16 := by decide

/-- X may be any register but F, 0 and E the ends; and X = F is the other clause. -/
theorem witness_flag_writers : (0x0 : Nibble) ≠ 0xF ∧ (0xE : Nibble) ≠ 0xF := by decide

theorem witness_ShiftIgnoresTheOtherRegister :
    (0x0 : Nibble) ≠ 0xF ∧ State.reset.cfg.shiftSourceVy = false ∧
      (quirkVy State.reset).cfg.shiftSourceVy = true := by decide

theorem witness_RandomMasksOneDrawnByte :
    ({ State.reset with rand := [0xB7] } : State).rand = [0xB7] ∧ State.reset.rand = [] := by decide

/-- For RegistersChangeOnlyAsDestinations and OnlyNamedInstructionsWriteSpecialState: an execute phase with a next
state, for an instruction of none of the named kinds and for one of each. -/
theorem witness_exec_answers_next :
    ([.addReg 0x1 0x2, .ldI 0xFFF, .call 0x204, .ret, .unimplFX55 0x1] : List Instr).all
      (fun i => match exec i (stacked 0x200 1) with | .next _ => true | _ => false) = true ∧
      ∃ t, exec (.rnd 0x3 0x0F) State.reset = .next t := ⟨by decide, _, rfl⟩

theorem witness_EveryTransactionKeepsInvariant : State.reset.Inv ∧ State.reset.Quiescent := ⟨reset_inv, rfl, rfl⟩

/-- The longest program that loads. -/
theorem witness_LoadProgramCopiesItsBytes :
    Memory.wf State.reset.mem = true ∧ (List.replicate 3584 (0xAB : Byte)).length ≤ 3584 :=
  ⟨by decide, by rw [List.length_replicate]⟩

/-- The shortest program that does not. -/
theorem witness_OversizedProgramHalts : 3584 < (List.replicate 3585 (0xAB : Byte)).length := by
  rw [List.length_replicate]; decide

theorem witness_RunningTickRunsItsBudget : State.reset.run = .running := by decide

theorem witness_HaltedTickRunsNothing :
    ({ State.reset with run := .halted } : State).run = .halted ∧
      ({ State.reset with run := .halted } : State).Quiescent := ⟨rfl, rfl, rfl⟩

theorem witness_BuzzerFollowsTheDecrement : State.reset.run = .running ∧ State.reset.cfg.stEqualsBuzzer = true := by
  decide

theorem witness_TimersCountDownToZero : ({ State.reset with dt := 5, st := 255 } : State).run = .running := by decide

theorem witness_SuppliedBytesCoverTheTick : State.reset.cfg.cyclesPerFrame ≤ ([0xB7] : List Byte).length := by decide

theorem witness_OnlyResetLeavesHalted :
    ({ State.reset with run := .halted } : State).run = .halted ∧
      ∀ tr ∈ ([.loadProgram [0x12], .tick [] true, .setTimer .sound 9, .snapshot] : List Transaction),
        tr.isReset = false := by decide

theorem witness_OnlyResetChangesConfig :
    ∀ tr ∈ ([.loadProgram [0x12], .tick [0x01] false, .setTimer .delay 1, .snapshot] : List Transaction),
      tr.isReset = false := by decide

end Sys2Proof.Tests
end

section
/-!
PROOFS. What one step may do to the state outside the general registers, PC and the stack; the inductions over a frame's
steps and over a session's transactions; and with them the statements of 00_scope.md: every transaction and every session
completes, the invariant is kept, and SNAPSHOT shows the state.
-/

namespace Sys2Proof.Machine

/-! ## What one step may do -/

/-- The effect of a step on the state outside V, PC, the stack and the draws: memory, timers, configuration and
execution state stand, I stands or is written masked, and at most one record is appended, of a kind a step raises. -/
structure StepEffect (s t : State) : Prop where
  memory : t.mem = s.mem
  timers : KeepsTimers s t
  session : KeepsSession s t
  index : t.i = s.i ∨ ∃ w : Word, t.i = w &&& 0x0FFF
  records : t.diagnostics = s.diagnostics ∨ ∃ d : Diagnostic, d.wellFormed = true ∧ t.diagnostics = s.diagnostics ++ [d]

namespace StepEffect

variable (s : State)

theorem setV (x : Nibble) (b : Byte) : StepEffect s (s.setV x b) :=
  ⟨rfl, ⟨rfl, rfl⟩, ⟨rfl, rfl⟩, .inl rfl, .inl rfl⟩

theorem setResultAndFlag (x : Nibble) (b f : Byte) : StepEffect s (s.setResultAndFlag x b f) :=
  ⟨rfl, ⟨rfl, rfl⟩, ⟨rfl, rfl⟩, .inl rfl, .inl rfl⟩

theorem setPc (w : Word) : StepEffect s (s.setPc w) :=
  ⟨rfl, ⟨rfl, rfl⟩, ⟨rfl, rfl⟩, .inl rfl, .inl rfl⟩

theorem skipIf (c : Bool) : StepEffect s (s.skipIf c) where
  memory := s.skipIf_mem c
  timers := ⟨s.skipIf_dt c, s.skipIf_st c⟩
  session := ⟨s.skipIf_cfg c, s.skipIf_run c⟩
  index := .inl (s.skipIf_i c)
  records := .inl (s.skipIf_diagnostics c)

theorem setI (w : Word) : StepEffect s (s.setI w) :=
  ⟨rfl, ⟨rfl, rfl⟩, ⟨rfl, rfl⟩, .inr ⟨w, rfl⟩, .inl rfl⟩

theorem draw_setV (x : Nibble) (b : Byte) : StepEffect s (s.draw.2.setV x b) where
  memory := s.draw_mem
  timers := ⟨s.draw_dt, s.draw_st⟩
  session := ⟨s.draw_cfg, s.draw_run⟩
  index := .inl s.draw_i
  records := .inl s.draw_diagnostics

theorem raise {k : ErrorKind} (h : k = .unknownOpcode ∨ k = .stackOverflow ∨ k = .stackUnderflow) (w : Word) :
    StepEffect s (s.raise k w) :=
  ⟨rfl, ⟨rfl, rfl⟩, ⟨rfl, rfl⟩, .inl rfl, .inr ⟨_, Diagnostic.of_wellFormed h s.fetchedFrom w, rfl⟩⟩

/-- The fetch's advance of PC is outside the effect, so the effect of the execute phase is that of the step. -/
theorem of_advancePc {s t : State} (h : StepEffect s.advancePc t) : StepEffect s t :=
  ⟨h.memory, h.timers, h.session, h.index, h.records⟩

/-- A step that does nothing. -/
theorem refl : StepEffect s s := ⟨rfl, ⟨rfl, rfl⟩, ⟨rfl, rfl⟩, .inl rfl, .inl rfl⟩

end StepEffect

/-- CALL completes, with room on the stack (R88) or without (R129). -/
theorem execCall_effect (nnn : Addr) (s : State) : ∃ t, execCall nnn s = .next t ∧ StepEffect s t := by
  by_cases h : s.sp.val < 16
  · exact ⟨_, execCall_of_lt nnn h, rfl, ⟨rfl, rfl⟩, ⟨rfl, rfl⟩, .inl rfl, .inl rfl⟩
  · have hfull : s.sp.val = 16 := by omega
    exact ⟨_, execCall_of_full nnn hfull, .raise s (.inr (.inl rfl)) _⟩

/-- RET completes, with an entry on the stack (R86) or without (R130). -/
theorem execRet_effect (s : State) : ∃ t, execRet s = .next t ∧ StepEffect s t := by
  cases h : s.sp.val with
  | zero => exact ⟨_, execRet_of_empty h, .raise s (.inr (.inr rfl)) _⟩
  | succ n => exact ⟨_, execRet_of_sp h, rfl, ⟨rfl, rfl⟩, ⟨rfl, rfl⟩, .inl rfl, .inl rfl⟩

/-- Every instruction's execute phase completes, with the effect of a step (R77, R128). -/
theorem exec_effect (i : Instr) (s : State) : ∃ t, exec i s = .next t ∧ StepEffect s t := by
  cases i with
  | nop => exact ⟨s, rfl, .refl s⟩
  | ret => exact execRet_effect s
  | call nnn => exact execCall_effect nnn s
  | jp | jpV0 => exact ⟨_, rfl, .setPc s _⟩
  | seImm | sneImm | seReg | sneReg => exact ⟨_, rfl, .skipIf s _⟩
  | ldImm | addImm | ldReg | or | and | xor => exact ⟨_, rfl, .setV s _ _⟩
  | addReg | sub | shr | subn | shl => exact ⟨_, rfl, .setResultAndFlag s _ _ _⟩
  | ldI => exact ⟨_, rfl, .setI s _⟩
  | rnd => exact ⟨_, rfl, .draw_setV s _ _⟩
  | unimpl00E0 | unimplDXYN | unimplEX9E | unimplEXA1 | unimplFX07 | unimplFX0A | unimplFX15 | unimplFX18 | unimplFX1E
  | unimplFX29 | unimplFX33 | unimplFX55 | unimplFX65 =>
    exact ⟨_, exec_of_unimplemented s rfl, .raise s (.inl rfl) _⟩

theorem execute_effect (d : Descriptor) (s : State) : ∃ t, execute d s = .next t ∧ StepEffect s t := by
  cases d with
  | instr i => exact exec_effect i s
  | unknown w => exact ⟨_, execute_unknown s w, .raise s (.inl rfl) w⟩

/-- Every step completes, from a Running state by R75 and from a Halted one by notes/assumptions/5.md. -/
theorem step_effect (s : State) : ∃ t, step s = .next t ∧ StepEffect s t := by
  cases h : s.run with
  | halted => exact ⟨s, step_halted h, .refl s⟩
  | running =>
    obtain ⟨t, ht, effect⟩ := execute_effect (decode s.fetchWord) s.advancePc
    exact ⟨t, (step_running h).trans ht, effect.of_advancePc⟩

/-! ## The invariant and the shared operations -/

/-- I masked on write has bits 15:12 zero (R23). -/
theorem and_0FFF_and_F000 (w : Word) : (w &&& 0x0FFF) &&& 0xF000 = 0 := by
  rw [BitVec.and_assoc]; exact BitVec.and_zero

namespace State.Inv

variable {s t : State}

/-- The invariant reads memory, I and the records only, and fewer records are no harm. -/
theorem of_fields (h : s.Inv) (mem : t.mem = s.mem) (index : t.i = s.i) (records : t.diagnostics ⊆ s.diagnostics) :
    t.Inv :=
  ⟨mem ▸ h.memWf, index ▸ h.indexMasked, fun d hd => h.recordsWf d (records hd)⟩

theorem of_stepEffect (h : s.Inv) (effect : StepEffect s t) : t.Inv where
  memWf := effect.memory ▸ h.memWf
  indexMasked := by
    rcases effect.index with hi | ⟨w, hi⟩
    · exact hi ▸ h.indexMasked
    · rw [hi, and_0FFF_and_F000]
  recordsWf d hd := by
    rcases effect.records with hsame | ⟨e, he, happend⟩
    · exact h.recordsWf d (hsame ▸ hd)
    · rw [happend, List.mem_append, List.mem_singleton] at hd
      rcases hd with hold | rfl
      · exact h.recordsWf d hold
      · exact he

theorem of_step (h : s.Inv) (hstep : step s = .next t) : t.Inv := by
  obtain ⟨t', ht', effect⟩ := step_effect s
  obtain rfl : t' = t := Host.Outcome.next.inj (ht'.symm.trans hstep)
  exact h.of_stepEffect effect

theorem beginTick (h : s.Inv) (rand : List Byte) : (s.beginTick rand).Inv := h.of_fields rfl rfl (List.nil_subset _)

theorem decrementTimers (h : s.Inv) : s.decrementTimers.Inv := h.of_fields rfl rfl (List.Subset.refl _)

theorem endTick (h : s.Inv) : s.endTick.Inv := h.of_fields rfl rfl (List.nil_subset _)

theorem setTimer (h : s.Inv) (which : Timer) (v : Int) : (s.setTimer which v).Inv :=
  h.of_fields (s.setTimer_mem which v) (s.setTimer_i which v) (s.setTimer_diagnostics which v ▸ List.Subset.refl _)

theorem loadProgram (h : s.Inv) (bytes : List Byte) : (s.loadProgram bytes).1.Inv where
  memWf := by
    unfold State.loadProgram
    split
    · exact h.memWf
    · exact Memory.wf_writeBytes _ bytes h.memWf
  indexMasked := by rw [State.loadProgram_i]; exact h.indexMasked
  recordsWf := by rw [State.loadProgram_diagnostics]; exact h.recordsWf

theorem resetSession (s : State) (cfg : SessionConfig) : (s.resetSession cfg).Inv where
  memWf := rfl
  indexMasked := by rw [State.resetSession_i]; decide
  recordsWf := by simp

end State.Inv

namespace State.Quiescent

variable {s : State}

theorem endTick (s : State) : s.endTick.Quiescent := ⟨rfl, rfl⟩

theorem resetSession (s : State) (cfg : SessionConfig) : (s.resetSession cfg).Quiescent := ⟨rfl, rfl⟩

theorem setTimer (h : s.Quiescent) (which : Timer) (v : Int) : (s.setTimer which v).Quiescent :=
  ⟨(s.setTimer_diagnostics which v).trans h.noRecords, (s.setTimer_rand which v).trans h.noRand⟩

theorem loadProgram (h : s.Quiescent) (bytes : List Byte) : (s.loadProgram bytes).1.Quiescent :=
  ⟨(s.loadProgram_diagnostics bytes).trans h.noRecords, (s.loadProgram_rand bytes).trans h.noRand⟩

end State.Quiescent

/-! ## The frame's steps and the tick (60_exceptions.md R140, R144) -/

theorem runSteps_succ {s t : State} (h : step s = .next t) (n executed : Nat) :
    runSteps (n + 1) executed s = runSteps n (executed + 1) t := by
  rw [runSteps, h]

/-- A frame's steps all run and are counted, and what every step keeps holds after them. -/
theorem runSteps_keeps {P : State → Prop} (hstep : ∀ s t, step s = .next t → P s → P t) (n executed : Nat) (s : State)
    (hs : P s) : ∃ t, runSteps n executed s = .next (t, executed + n) ∧ P t := by
  induction n generalizing executed s with
  | zero => exact ⟨s, rfl, hs⟩
  | succ n ih =>
    obtain ⟨t, ht, -⟩ := step_effect s
    obtain ⟨u, hu, hPu⟩ := ih (executed + 1) t (hstep s t ht hs)
    exact ⟨u, by rw [runSteps_succ ht, hu, Nat.add_right_comm, Nat.add_assoc], hPu⟩

theorem tick_halted {s : State} (h : s.run = .halted) (rand : List Byte) (ext : Bool) :
    tick rand ext s = .next ((s.beginTick rand).finishTick 0 ext) := by
  rw [tick, h]

theorem tick_running {s t : State} {n : Nat} {rand : List Byte} (h : s.run = .running)
    (hrun : runSteps s.cfg.cyclesPerFrame 0 (s.beginTick rand) = .next (t, n)) (ext : Bool) :
    tick rand ext s = .next (t.decrementTimers.finishTick n ext) := by
  simp only [tick, h, hrun]

/-- Every tick completes, and what its start, every step and the decrement keep holds of the state it ends on. -/
theorem tick_keeps {P : State → Prop} (hstep : ∀ s t, step s = .next t → P s → P t)
    (hdec : ∀ s, P s → P s.decrementTimers) (rand : List Byte) (ext : Bool) (s : State) (hs : P (s.beginTick rand)) :
    ∃ t o, tick rand ext s = .next (t.endTick, o) ∧ P t := by
  cases h : s.run with
  | halted => exact ⟨_, _, tick_halted h rand ext, hs⟩
  | running =>
    obtain ⟨t, ht, hPt⟩ := runSteps_keeps hstep s.cfg.cyclesPerFrame 0 _ hs
    exact ⟨_, _, tick_running h ht ext, hdec t hPt⟩

/-! ## Transactions and sessions (00_scope.md R12, 70_reset_and_hazards.md R153) -/

theorem transact_tick {s t : State} {o : FrameOutcome} {rand : List Byte} {ext : Bool}
    (h : tick rand ext s = .next (t, o)) : transact (.tick rand ext) s = .next (t, .frame o) := by
  rw [transact, h]

/-- Every transaction completes, from any state. -/
theorem transact_completes (tr : Transaction) (s : State) : ∃ t r, transact tr s = .next (t, r) := by
  cases tr with
  | reset cfg => exact ⟨_, _, transact_reset s cfg⟩
  | loadProgram bytes => exact ⟨_, _, transact_loadProgram s bytes⟩
  | tick rand ext =>
    obtain ⟨t, o, ht, -⟩ := tick_keeps (P := fun _ => True) (fun _ _ _ h => h) (fun _ h => h) rand ext s trivial
    exact ⟨_, _, transact_tick ht⟩
  | setTimer which v => exact ⟨_, _, transact_setTimer s which v⟩
  | snapshot => exact ⟨_, _, transact_snapshot s⟩

theorem runSession_cons {tr : Transaction} {trs : List Transaction} {s t u : State} {r : Response} {rs : List Response}
    (h : transact tr s = .next (t, r)) (hrest : runSession trs t = .next (u, rs)) :
    runSession (tr :: trs) s = .next (u, r :: rs) := by
  simp only [runSession, h, hrest]

/-- A session completes with one response for each transaction, and what its transactions keep holds at its end. -/
theorem runSession_keeps {P : State → Prop} (trs : List Transaction) (s : State)
    (htr : ∀ tr ∈ trs, ∀ s t r, transact tr s = .next (t, r) → P s → P t) (hs : P s) :
    ∃ t rs, runSession trs s = .next (t, rs) ∧ rs.length = trs.length ∧ P t := by
  induction trs generalizing s with
  | nil => exact ⟨s, [], rfl, rfl, hs⟩
  | cons tr trs ih =>
    obtain ⟨hhead, htail⟩ := List.forall_mem_cons.1 htr
    obtain ⟨t, r, ht⟩ := transact_completes tr s
    obtain ⟨u, rs, hu, hlen, hPu⟩ := ih t htail (hhead s t r ht hs)
    exact ⟨u, r :: rs, runSession_cons ht hu, congrArg (· + 1) hlen, hPu⟩

/-! ## SNAPSHOT (R17) -/

/-- I as read is its storage modulo 4096 (R23). -/
theorem State.getI_toNat (s : State) : s.getI.toNat = s.i.toNat % 4096 := and_0FFF_toNat s.i

theorem State.snapshot_mem_length (s : State) : s.snapshot.mem.length = Config.memSize := by
  rw [State.snapshot, List.length_map, List.length_range]

theorem State.snapshot_mem_getElem? (s : State) {a : Nat} (h : a < Config.memSize) :
    s.snapshot.mem[a]? = some (s.readMem a) := by
  rw [State.snapshot, List.getElem?_map, List.getElem?_range h, Option.map_some]

/-! ## The statements -/

/-- Settles O41: a case per transaction; a TICK keeps the invariant by the induction over its steps and ends by dropping
what is transient. -/
theorem everyTransactionKeepsInvariant : Obligations.EveryTransactionKeepsInvariant := by
  intro tr s hs
  cases tr with
  | reset cfg =>
    exact ⟨_, _, transact_reset s cfg, .resetSession s cfg, fun _ => .resetSession s cfg, fun _ _ => .resetSession s cfg,
      nofun⟩
  | loadProgram bytes =>
    exact ⟨_, _, transact_loadProgram s bytes, hs.loadProgram bytes, fun hq => hq.loadProgram bytes, nofun, nofun⟩
  | tick rand ext =>
    obtain ⟨t, o, htick, ht⟩ := tick_keeps (P := State.Inv) (fun _ _ hstep h => h.of_step hstep)
      (fun _ h => h.decrementTimers) rand ext s (hs.beginTick rand)
    exact ⟨_, _, transact_tick htick, ht.endTick, fun _ => .endTick t, nofun, fun _ _ _ => .endTick t⟩
  | setTimer which v =>
    exact ⟨_, _, transact_setTimer s which v, hs.setTimer which v, fun hq => hq.setTimer which v, nofun, nofun⟩
  | snapshot => exact ⟨s, _, transact_snapshot s, hs, id, nofun, nofun⟩

/-- Settles O46: the snapshot's own fields are the state's; memory is listed cell by cell and I is masked. -/
theorem snapshotShowsTheStateUnchanged : Obligations.SnapshotShowsTheStateUnchanged := fun s =>
  ⟨s.snapshot, transact_snapshot s, s.snapshot_mem_length, fun _ ha => s.snapshot_mem_getElem? ha, rfl, s.getI_toNat, rfl,
    rfl, rfl, rfl, rfl, rfl, rfl⟩

/-- Settles O53: the induction over a session, with nothing to keep but completion. -/
theorem everySessionCompletes : Obligations.EverySessionCompletes := fun trs s => by
  obtain ⟨t, rs, hrun, hlen, -⟩ := runSession_keeps (P := fun _ => True) trs s (fun _ _ _ _ _ _ h => h) trivial
  exact ⟨t, rs, hrun, hlen⟩

end Sys2Proof.Machine
end

section
/-!
PROOFS. What each instruction of the table may write, said once, and what holds of an outcome known to be a next state;
with them the statements of 10_state.md: a step keeps the invariant and writes no memory, timer or configuration, the
registers and the special state have only their named writers, RESET sets every field, and SET_TIMER clamps.
-/

namespace Sys2Proof.Machine

variable {i : Instr} {s t : State}

/-- What holds of the next state an outcome is known to have holds of the one it is. -/
theorem holds_of_next {α : Type} {o : Host.Outcome α Fault Refusal} {P : α → Prop} {a : α}
    (h : ∃ b, o = .next b ∧ P b) (ha : o = .next a) : P a := by
  obtain ⟨b, hb, hP⟩ := h
  obtain rfl : b = a := Host.Outcome.next.inj (hb.symm.trans ha)
  exact hP

/-- Equal memories read the same. -/
theorem keepsMemory_of_mem (h : t.mem = s.mem) : KeepsMemory s t := fun a => by
  rw [State.readMem, State.readMem, h]

/-! ## What an instruction may write -/

/-- The effect of an instruction's execute phase beside StepEffect: the general registers, I, the stack's entries, SP
and the draws are each unchanged unless the instruction is one of its writers (10_state.md R21 to R26). -/
structure ExecFrame (i : Instr) (s t : State) : Prop where
  registers : KeepsRegistersBut (destinations i) s t
  index : (∀ nnn, i ≠ .ldI nnn) → t.i = s.i
  entries : (∀ nnn, i ≠ .call nnn) → t.stack = s.stack
  depth : (∀ nnn, i ≠ .call nnn) → i ≠ .ret → t.sp = s.sp
  draws : (∀ x kk, i ≠ .rnd x kk) → KeepsDraws s t

namespace ExecFrame

/-- An instruction that writes no register but its destinations, and neither I nor the stack nor a draw. -/
theorem of_unwritten (registers : KeepsRegistersBut (destinations i) s t) (index : t.i = s.i) (stack : KeepsStack s t)
    (draws : KeepsDraws s t) : ExecFrame i s t :=
  ⟨registers, fun _ => index, fun _ => stack.2, fun _ _ => stack.1, fun _ => draws⟩

theorem refl : ExecFrame i s s := of_unwritten (fun _ _ => rfl) rfl ⟨rfl, rfl⟩ ⟨rfl, rfl⟩

theorem of_onlyRegisters (h : OnlyRegisters (destinations i) s t) : ExecFrame i s t :=
  of_unwritten h.registers h.index h.storage.stack h.draws

theorem of_onlyPc (h : OnlyPc s t) : ExecFrame i s t :=
  of_unwritten (fun r _ => h.registers r List.not_mem_nil) h.index h.storage.stack h.draws

theorem of_onlyRecords (h : OnlyRecords s t) : ExecFrame i s t :=
  of_unwritten (fun r _ => h.registers r List.not_mem_nil) h.index h.storage.stack h.draws

/-- LD I is the writer of I (R23). -/
theorem ldI (nnn : Addr) (w : Word) : ExecFrame (.ldI nnn) s (s.setI w) where
  registers _ _ := rfl
  index h := absurd rfl (h nnn)
  entries _ := rfl
  depth _ _ := rfl
  draws _ := ⟨rfl, rfl⟩

/-- RND is the writer of the draws, and of its destination (42_index_jump_random.md R108). -/
theorem rnd (x : Nibble) (kk b : Byte) : ExecFrame (.rnd x kk) s (s.draw.2.setV x b) where
  registers r hr := by
    have hne : r ≠ x := fun h => hr (List.mem_singleton.2 h)
    rw [State.getV_setV_other _ _ hne, State.draw_getV]
  index _ := s.draw_i
  entries _ := s.draw_stack
  depth _ _ := s.draw_sp
  draws h := absurd rfl (h x kk)

end ExecFrame

/-- CALL is the writer of the stack and of SP, and on a full stack it only reports (R26). -/
theorem execCall_frame (nnn : Addr) (s : State) : ∃ t, execCall nnn s = .next t ∧ ExecFrame (.call nnn) s t := by
  by_cases h : s.sp.val < 16
  · exact ⟨_, execCall_of_lt nnn h, fun _ _ => rfl, fun _ => rfl, fun hne => absurd rfl (hne nnn),
      fun hne => absurd rfl (hne nnn), fun _ => ⟨rfl, rfl⟩⟩
  · have hfull : s.sp.val = 16 := by omega
    exact ⟨_, execCall_of_full nnn hfull, .of_onlyRecords (onlyRecords_raise s _ _)⟩

/-- RET moves SP and clears no entry, and on an empty stack it only reports (R25, R26). -/
theorem execRet_frame (s : State) : ∃ t, execRet s = .next t ∧ ExecFrame .ret s t := by
  cases h : s.sp.val with
  | zero => exact ⟨_, execRet_of_empty h, .of_onlyRecords (onlyRecords_raise s _ _)⟩
  | succ n =>
    exact ⟨_, execRet_of_sp h, fun _ _ => rfl, fun _ => rfl, fun _ => rfl, fun _ hne => absurd rfl hne,
      fun _ => ⟨rfl, rfl⟩⟩

theorem exec_frame (i : Instr) (s : State) : ∃ t, exec i s = .next t ∧ ExecFrame i s t := by
  cases i with
  | nop => exact ⟨s, rfl, .refl⟩
  | ret => exact execRet_frame s
  | call nnn => exact execCall_frame nnn s
  | jp | jpV0 => exact ⟨_, rfl, .of_onlyPc (onlyPc_setPc s _)⟩
  | seImm | sneImm | seReg | sneReg => exact ⟨_, rfl, .of_onlyPc (onlyPc_skipIf s _)⟩
  | ldImm | addImm | ldReg | or | and | xor => exact ⟨_, rfl, .of_onlyRegisters (onlyRegisters_setV s _ _)⟩
  | addReg | sub | shr | subn | shl =>
    exact ⟨_, rfl, .of_onlyRegisters (onlyRegisters_setResultAndFlag s _ _ _)⟩
  | ldI nnn => exact ⟨_, rfl, .ldI nnn _⟩
  | rnd x kk => exact ⟨_, rfl, .rnd x kk _⟩
  | unimpl00E0 | unimplDXYN | unimplEX9E | unimplEXA1 | unimplFX07 | unimplFX0A | unimplFX15 | unimplFX18 | unimplFX1E
  | unimplFX29 | unimplFX33 | unimplFX55 | unimplFX65 =>
    exact ⟨_, exec_of_unimplemented s rfl, .of_onlyRecords (onlyRecords_raise s _ _)⟩

/-! ## The state after RESET -/

/-- The state after reset is what the transaction RESET leaves of it. -/
theorem State.resetSession_resetWith (cfg : SessionConfig) :
    (State.resetWith cfg).resetSession cfg = State.resetWith cfg := rfl

theorem State.resetSession_readMem (s : State) (cfg : SessionConfig) (a : Nat) :
    (s.resetSession cfg).readMem a = 0 := rfl

theorem State.resetSession_getV (s : State) (cfg : SessionConfig) (r : Nibble) : (s.resetSession cfg).getV r = 0 := by
  simp [State.getV]

theorem State.resetSession_getI (s : State) (cfg : SessionConfig) : (s.resetSession cfg).getI = 0 := BitVec.zero_and

/-! ## The statements -/

/-- Settles O40: the effect of a step keeps each clause of the invariant. -/
theorem stepKeepsInvariant : Obligations.StepKeepsInvariant := fun _ _ hs hstep => hs.of_step hstep

/-- Settles O11: memory, timers and session stand in the effect of a step. -/
theorem noStepWritesMemoryTimersOrConfig : Obligations.NoStepWritesMemoryTimersOrConfig := by
  intro s t hstep
  have effect : StepEffect s t := holds_of_next (step_effect s) hstep
  exact ⟨keepsMemory_of_mem effect.memory, effect.timers, effect.session.1⟩

/-- Settles O37, by the frame of an instruction's execute phase. -/
theorem registersChangeOnlyAsDestinations : Obligations.RegistersChangeOnlyAsDestinations :=
  fun i s _ hexec => (holds_of_next (exec_frame i s) hexec).registers

/-- Settles O38: the named writers are the frame's; what no instruction writes is outside the effect of any step. -/
theorem onlyNamedInstructionsWriteSpecialState : Obligations.OnlyNamedInstructionsWriteSpecialState := by
  intro i s t hexec
  have frame : ExecFrame i s t := holds_of_next (exec_frame i s) hexec
  have effect : StepEffect s t := holds_of_next (exec_effect i s) hexec
  exact ⟨frame.index, frame.entries, frame.depth, frame.draws, keepsMemory_of_mem effect.memory, effect.timers,
    effect.session⟩

/-- Settles O45: each timer gets the clamped byte, and the update names no other field. -/
theorem setTimerClamps : Obligations.SetTimerClamps := fun v s =>
  ⟨⟨_, transact_setTimer s .delay v, clampByte_toNat v, rfl⟩,
    ⟨_, transact_setTimer s .sound v, clampByte_toNat v, rfl⟩⟩

/-- Settles O39: the state after reset is one that RESET leaves. -/
theorem resetMeetsInvariant : Obligations.ResetMeetsInvariant := fun cfg => by
  rw [← State.resetSession_resetWith]
  exact ⟨.resetSession _ cfg, .resetSession _ cfg⟩

/-- Settles O42, field by field. -/
theorem resetSetsEveryField : Obligations.ResetSetsEveryField := by
  intro cfg s
  have hstack (k : Nat) (hk : k < 16) : (s.resetSession cfg).stack[k] = 0 := by simp
  exact ⟨_, transact_reset s cfg, s.resetSession_readMem cfg, rfl, s.resetSession_getV cfg, s.resetSession_getI cfg,
    rfl, hstack, rfl, rfl, rfl, rfl⟩

end Sys2Proof.Machine
end

section
/-!
PROOFS. The fetch is the one reader of memory, and it masks each of its two addresses (20_memory.md R46, R50, R55): the
execute phase commutes with a change of memory, so a step depends on no byte but those it fetches.
-/

namespace Sys2Proof.Machine

/-! ## The fetch -/

/-- A read masks its address, so an address already reduced reads the same byte (R46). -/
theorem State.readMem_mod (s : State) (a : Nat) : s.readMem (a % 4096) = s.readMem a :=
  congrArg (Memory.get s.mem) (Memory.cellOf_mod a)

/-! ## Another memory in place of the state's own -/

/-- The state with memory `m` in place of its own. -/
def State.withMem (m : Memory) (s : State) : State := { s with mem := m }

variable {m : Memory} {s : State}

/-- The fetch reads memory at PC and at the address after it, and nowhere else (30_encoding.md R75). -/
theorem State.fetchWord_withMem (hhi : Memory.read m s.pc.toNat = s.readMem s.pc.toNat)
    (hlo : Memory.read m (s.pc.toNat + 1) = s.readMem (s.pc.toNat + 1)) : (s.withMem m).fetchWord = s.fetchWord :=
  congrArg₂ wordOfBytes hhi hlo

variable (m s)

theorem State.skipIf_withMem (c : Bool) : (s.withMem m).skipIf c = (s.skipIf c).withMem m := by cases c <;> rfl

theorem State.draw_withMem : (s.withMem m).draw = (s.draw.1, s.draw.2.withMem m) := by
  cases h : s.rand with
  | nil => rw [State.draw_of_nil h, State.draw_of_nil (s := s.withMem m) h]; rfl
  | cons r rest => rw [State.draw_of_cons h, State.draw_of_cons (s := s.withMem m) h]; rfl

theorem execCall_withMem (nnn : Addr) : execCall nnn (s.withMem m) = mapNext (State.withMem m) (execCall nnn s) := by
  by_cases h : s.sp.val < 16
  · rw [execCall_of_lt nnn h, execCall_of_lt (s := s.withMem m) nnn h]; rfl
  · have hfull : s.sp.val = 16 := by omega
    rw [execCall_of_full nnn hfull, execCall_of_full (s := s.withMem m) nnn hfull]; rfl

theorem execRet_withMem : execRet (s.withMem m) = mapNext (State.withMem m) (execRet s) := by
  cases h : s.sp.val with
  | zero => rw [execRet_of_empty h, execRet_of_empty (s := s.withMem m) h]; rfl
  | succ n => rw [execRet_of_sp h, execRet_of_sp (s := s.withMem m) h]; rfl

theorem execRnd_withMem (x : Nibble) (kk : Byte) :
    execRnd x kk (s.withMem m) = mapNext (State.withMem m) (execRnd x kk s) := by
  rw [execRnd, State.draw_withMem]; rfl

/-- No instruction's execute phase reads memory or writes it (R55). -/
theorem exec_withMem (i : Instr) : exec i (s.withMem m) = mapNext (State.withMem m) (exec i s) := by
  cases i with
  | ret => exact execRet_withMem m s
  | call nnn => exact execCall_withMem m s nnn
  | rnd x kk => exact execRnd_withMem m s x kk
  | seImm | sneImm | seReg | sneReg => exact congrArg Host.Outcome.next (State.skipIf_withMem m s _)
  | nop | jp | jpV0 | ldI | ldImm | addImm | ldReg | or | and | xor | addReg | sub | shr | subn | shl => rfl
  | unimpl00E0 | unimplDXYN | unimplEX9E | unimplEXA1 | unimplFX07 | unimplFX0A | unimplFX15 | unimplFX18 | unimplFX1E
  | unimplFX29 | unimplFX33 | unimplFX55 | unimplFX65 => rfl

theorem execute_withMem (d : Descriptor) : execute d (s.withMem m) = mapNext (State.withMem m) (execute d s) := by
  cases d with
  | instr i => exact exec_withMem m s i
  | unknown w => rfl

variable {m s}

/-- A step from a state with another memory that gives the same fetched word. -/
theorem step_withMem (hfetch : (s.withMem m).fetchWord = s.fetchWord) :
    step (s.withMem m) = mapNext (State.withMem m) (step s) := by
  cases h : s.run with
  | halted => rw [step_halted h, step_halted (s := s.withMem m) h]; rfl
  | running =>
    calc step (s.withMem m)
      _ = execute (decode (s.withMem m).fetchWord) (s.advancePc.withMem m) := step_running h
      _ = mapNext (State.withMem m) (execute (decode s.fetchWord) s.advancePc) := by rw [hfetch, execute_withMem]
      _ = mapNext (State.withMem m) (step s) := by rw [step_running h]

/-! ## The statements -/

/-- Settles O14: equal fetched bytes make equal words, and the rest of the step commutes with a change of memory. -/
theorem stepReadsOnlyTheFetchedBytes : Obligations.StepReadsOnlyTheFetchedBytes := fun _ _ hhi hlo =>
  step_withMem (State.fetchWord_withMem hhi hlo)

/-- Settles O8: the word's value from its bytes, each read at an address masked on its own. -/
theorem fetchIsBigEndianAndWraps : Obligations.FetchIsBigEndianAndWraps := fun s => by
  rw [State.readMem_mod, State.readMem_mod, Nat.mul_comm]
  exact wordOfBytes_toNat _ _

end Sys2Proof.Machine
end

section
/-!
PROOFS. Decoding and encoding (30_encoding.md R63 to R74): the encoder is the decoder's inverse, the opcode map's rows
and the unknown space are read off a word's fields, and an assembled line is its descriptor's word.
-/

namespace Sys2Proof

/-! ## Fields of a literal and of a masked word -/

/-- A bit slice of a literal word is a quotient by a power of two. -/
theorem extractLsb'_word_ofNat {start len : Nat} (h : start + len ≤ 16) (k : Nat) :
    (BitVec.ofNat 16 k).extractLsb' start len = BitVec.ofNat len (k / 2 ^ start) := by
  ext i hi
  have hword : start + i < 16 := by omega
  simp [← BitVec.getLsbD_eq_getElem, BitVec.getLsbD_ofNat, hi, hword, Nat.testBit_div_two_pow, Nat.add_comm]

@[simp] theorem fieldOp_ofNat (k : Nat) : fieldOp (BitVec.ofNat 16 k) = BitVec.ofNat 4 (k / 4096) :=
  extractLsb'_word_ofNat (by decide) k

@[simp] theorem fieldX_ofNat (k : Nat) : fieldX (BitVec.ofNat 16 k) = BitVec.ofNat 4 (k / 256) :=
  extractLsb'_word_ofNat (by decide) k

@[simp] theorem fieldY_ofNat (k : Nat) : fieldY (BitVec.ofNat 16 k) = BitVec.ofNat 4 (k / 16) :=
  extractLsb'_word_ofNat (by decide) k

@[simp] theorem fieldN_ofNat (k : Nat) : fieldN (BitVec.ofNat 16 k) = BitVec.ofNat 4 k := by
  rw [fieldN, extractLsb'_word_ofNat (by decide), pow_zero, Nat.div_one]

@[simp] theorem fieldKK_ofNat (k : Nat) : fieldKK (BitVec.ofNat 16 k) = BitVec.ofNat 8 k := by
  rw [fieldKK, extractLsb'_word_ofNat (by decide), pow_zero, Nat.div_one]

variable {w v : Word}

/-- The low byte decides the two low nibbles. -/
theorem fieldKK_eq_fieldKK_iff : fieldKK w = fieldKK v ↔ fieldY w = fieldY v ∧ fieldN w = fieldN v := by
  rw [fieldKK_eq v, fieldKK_eq_iff]

theorem and_F000_eq_iff (hx : fieldX v = 0x0#4) (hkk : fieldKK v = 0x00#8) :
    w &&& 0xF000#16 = v ↔ fieldOp w = fieldOp v := by
  obtain ⟨hy, hn⟩ := (fieldKK_eq_iff v (a := 0x0#4) (b := 0x0#4)).1 hkk
  rw [mask_F000, eq_comm, eq_packNibbles_iff]
  simp [hx, hy, hn, eq_comm]

theorem and_F00F_eq_iff (hx : fieldX v = 0x0#4) (hy : fieldY v = 0x0#4) :
    w &&& 0xF00F#16 = v ↔ fieldOp w = fieldOp v ∧ fieldN w = fieldN v := by
  rw [mask_F00F, eq_comm, eq_packNibbles_iff]
  simp [hx, hy, eq_comm]

theorem and_F0FF_eq_iff (hx : fieldX v = 0x0#4) :
    w &&& 0xF0FF#16 = v ↔ fieldOp w = fieldOp v ∧ fieldKK w = fieldKK v := by
  rw [mask_F0FF, eq_comm, eq_packNibbles_iff, fieldKK_eq_fieldKK_iff]
  simp [hx, eq_comm]

theorem and_000F_eq_iff (hop : fieldOp v = 0x0#4) (hx : fieldX v = 0x0#4) (hy : fieldY v = 0x0#4) :
    w &&& 0x000F#16 = v ↔ fieldN w = fieldN v := by
  rw [mask_000F, eq_comm, eq_packNibbles_iff]
  simp [hop, hx, hy, eq_comm]

theorem and_00FF_eq_iff (hop : fieldOp v = 0x0#4) (hx : fieldX v = 0x0#4) :
    w &&& 0x00FF#16 = v ↔ fieldKK w = fieldKK v := by
  rw [mask_00FF, eq_comm, eq_packNibbles_iff, fieldKK_eq_fieldKK_iff]
  simp [hop, hx, eq_comm]

/-! ## The encoder is the decoder's inverse (R68) -/

/-- The decoder reads back the instruction from the fields its word packs. -/
theorem decode_encode (i : Instr) : decode (encode i) = .instr i := by
  cases i with
  | nop | unimpl00E0 | ret => rfl
  | jp | call | ldI | jpV0 | seImm | sneImm | ldImm | addImm | rnd | unimplDXYN | seReg | sneReg =>
    simp [encode, decode]
  | ldReg | or | and | xor | addReg | sub | shr | subn | shl => simp [encode, decode, decode8]
  | unimplEX9E | unimplEXA1 => simp [encode, decode, decodeE]
  | unimplFX07 | unimplFX0A | unimplFX15 | unimplFX18 | unimplFX1E | unimplFX29 | unimplFX33 | unimplFX55
  | unimplFX65 =>
    simp [encode, decode, decodeF]

/-- One arm of a family of the decoder keeps the word when its instruction does. -/
theorem encodeDescriptor_arm {c : Prop} [Decidable c] {i : Instr} {d : Descriptor} (hi : c → encode i = w)
    (hd : encodeDescriptor d = w) : encodeDescriptor (if c then .instr i else d) = w := by
  split
  · exact hi ‹c›
  · exact hd

theorem encodeDescriptor_decode0 (w : Word) : encodeDescriptor (decode0 w) = w := by
  unfold decode0
  iterate 3 refine encodeDescriptor_arm Eq.symm ?_
  rfl

theorem encodeDescriptor_decode8 (hop : fieldOp w = 0x8#4) : encodeDescriptor (decode8 w) = w := by
  unfold decode8
  iterate 9 refine encodeDescriptor_arm (packNibbles_of_n w hop) ?_
  rfl

theorem encodeDescriptor_decodeE (hop : fieldOp w = 0xE#4) : encodeDescriptor (decodeE w) = w := by
  unfold decodeE
  iterate 2 refine encodeDescriptor_arm (packXKK_of_kk w hop) ?_
  rfl

theorem encodeDescriptor_decodeF (hop : fieldOp w = 0xF#4) : encodeDescriptor (decodeF w) = w := by
  unfold decodeF
  iterate 9 refine encodeDescriptor_arm (packXKK_of_kk w hop) ?_
  rfl

/-- No bit of a word is dropped: the instruction keeps every field the row leaves free. -/
theorem encodeDescriptor_decode (w : Word) : encodeDescriptor (decode w) = w := by
  rcases nibble_cases (fieldOp w) with h | h | h | h | h | h | h | h | h | h | h | h | h | h | h | h
  · rw [decode_op0 h, encodeDescriptor_decode0]
  · rw [decode_op1 h]; exact packNNN_of w h
  · rw [decode_op2 h]; exact packNNN_of w h
  · rw [decode_op3 h]; exact packXKK_of w h
  · rw [decode_op4 h]; exact packXKK_of w h
  · rw [decode_op5 h]; exact encodeDescriptor_arm (packNibbles_of_n w h) rfl
  · rw [decode_op6 h]; exact packXKK_of w h
  · rw [decode_op7 h]; exact packXKK_of w h
  · rw [decode_op8 h, encodeDescriptor_decode8 h]
  · rw [decode_op9 h]; exact encodeDescriptor_arm (packNibbles_of_n w h) rfl
  · rw [decode_opA h]; exact packNNN_of w h
  · rw [decode_opB h]; exact packNNN_of w h
  · rw [decode_opC h]; exact packXKK_of w h
  · rw [decode_opD h]; exact packNibbles_of_n w h rfl
  · rw [decode_opE h, encodeDescriptor_decodeE h]
  · rw [decode_opF h, encodeDescriptor_decodeF h]

theorem encode_of_decode {i : Instr} (h : decode w = .instr i) : encode i = w := by
  have hword := encodeDescriptor_decode w
  rwa [h] at hword

theorem eq_of_decode_eq_unknown {w' : Word} (h : decode w = .unknown w') : w' = w := by
  have hword := encodeDescriptor_decode w
  rwa [h] at hword

/-! ## The unknown space (R71) by the fields of a word, as the decoder and as the masks give it -/

theorem arm_eq_unknown_iff {c : Prop} [Decidable c] {i : Instr} {d : Descriptor} :
    (if c then .instr i else d) = .unknown w ↔ ¬ c ∧ d = .unknown w := by
  split <;> simp [*]

theorem decode0_eq_unknown_iff : decode0 w = .unknown w ↔ w ≠ 0x0000#16 ∧ w ≠ 0x00E0#16 ∧ w ≠ 0x00EE#16 := by
  simp [decode0, arm_eq_unknown_iff]

theorem decode8_eq_unknown_iff :
    decode8 w = .unknown w ↔ fieldN w ∉ [0x0#4, 0x1#4, 0x2#4, 0x3#4, 0x4#4, 0x5#4, 0x6#4, 0x7#4, 0xE#4] := by
  simp [decode8, arm_eq_unknown_iff]

theorem decodeE_eq_unknown_iff : decodeE w = .unknown w ↔ fieldKK w ∉ [0x9E#8, 0xA1#8] := by
  simp [decodeE, arm_eq_unknown_iff]

theorem decodeF_eq_unknown_iff :
    decodeF w = .unknown w ↔
      fieldKK w ∉ [0x07#8, 0x0A#8, 0x15#8, 0x18#8, 0x1E#8, 0x29#8, 0x33#8, 0x55#8, 0x65#8] := by
  simp [decodeF, arm_eq_unknown_iff]

theorem unknownGroup0_iff :
    unknownGroup0 w = true ↔ fieldOp w = 0x0#4 ∧ w ≠ 0x0000#16 ∧ w ≠ 0x00E0#16 ∧ w ≠ 0x00EE#16 := by
  simp [unknownGroup0, and_F000_eq_iff, and_assoc]

theorem unknownGroup5_iff : unknownGroup5 w = true ↔ fieldOp w = 0x5#4 ∧ fieldN w ≠ 0x0#4 := by
  simp [unknownGroup5, and_F000_eq_iff, and_000F_eq_iff]

theorem unknownGroup8_iff :
    unknownGroup8 w = true ↔
      fieldOp w = 0x8#4 ∧ fieldN w ∉ [0x0#4, 0x1#4, 0x2#4, 0x3#4, 0x4#4, 0x5#4, 0x6#4, 0x7#4, 0xE#4] := by
  have hcompl (n : Nibble) : n ∈ [0x8#4, 0x9#4, 0xA#4, 0xB#4, 0xC#4, 0xD#4, 0xF#4] ↔
      n ∉ [0x0#4, 0x1#4, 0x2#4, 0x3#4, 0x4#4, 0x5#4, 0x6#4, 0x7#4, 0xE#4] := by decide +revert
  rw [← hcompl]
  simp [unknownGroup8, and_F000_eq_iff, and_000F_eq_iff]

theorem unknownGroup9_iff : unknownGroup9 w = true ↔ fieldOp w = 0x9#4 ∧ fieldN w ≠ 0x0#4 := by
  simp [unknownGroup9, and_F000_eq_iff, and_000F_eq_iff]

theorem unknownGroupE_iff : unknownGroupE w = true ↔ fieldOp w = 0xE#4 ∧ fieldKK w ∉ [0x9E#8, 0xA1#8] := by
  simp [unknownGroupE, and_F000_eq_iff, and_00FF_eq_iff]

theorem unknownGroupF_iff :
    unknownGroupF w = true ↔
      fieldOp w = 0xF#4 ∧ fieldKK w ∉ [0x07#8, 0x0A#8, 0x15#8, 0x18#8, 0x1E#8, 0x29#8, 0x33#8, 0x55#8, 0x65#8] := by
  simp [unknownGroupF, and_F000_eq_iff, and_00FF_eq_iff]

theorem inUnknownSpace_iff :
    inUnknownSpace w = true ↔ unknownGroup0 w = true ∨ unknownGroup5 w = true ∨ unknownGroup8 w = true ∨
      unknownGroup9 w = true ∨ unknownGroupE w = true ∨ unknownGroupF w = true := by
  simp only [inUnknownSpace, Bool.or_eq_true, or_assoc]

/-- Each leading nibble has at most one group, the one its family of the decoder leaves Unknown. -/
theorem decode_eq_unknown_iff : decode w = .unknown w ↔ inUnknownSpace w = true := by
  rw [inUnknownSpace_iff, unknownGroup0_iff, unknownGroup5_iff, unknownGroup8_iff, unknownGroup9_iff, unknownGroupE_iff,
    unknownGroupF_iff]
  rcases nibble_cases (fieldOp w) with h | h | h | h | h | h | h | h | h | h | h | h | h | h | h | h
  · simp [decode_op0 h, h, decode0_eq_unknown_iff]
  · simp [decode_op1 h, h]
  · simp [decode_op2 h, h]
  · simp [decode_op3 h, h]
  · simp [decode_op4 h, h]
  · simp [decode_op5 h, h]
  · simp [decode_op6 h, h]
  · simp [decode_op7 h, h]
  · simp [decode_op8 h, h, decode8_eq_unknown_iff]
  · simp [decode_op9 h, h]
  · simp [decode_opA h, h]
  · simp [decode_opB h, h]
  · simp [decode_opC h, h]
  · simp [decode_opD h, h]
  · simp [decode_opE h, h, decodeE_eq_unknown_iff]
  · simp [decode_opF h, h, decodeF_eq_unknown_iff]

/-! ## The opcode map (R70) -/

theorem row_mem_opcodeMap (i : Instr) : i.row ∈ opcodeMap := by
  cases i <;> exact List.mem_of_elem_eq_true rfl

theorem row_selects_of_decode {i : Instr} (h : decode w = .instr i) : i.row.selects w = true := by
  rw [← encode_of_decode h]
  exact Laws.EncodeFitsRow.holds i

/-- The row that selects a word fixes the nibbles the decoder branches on. -/
theorem decode_of_row_selects {i : Instr} (h : i.row.selects w = true) : ∃ j, decode w = .instr j ∧ j.row = i.row := by
  cases i with
  | nop | unimpl00E0 | ret =>
    simp only [OpcodeRow.selects, Instr.row, BitVec.ofNat_eq_ofNat, mask_FFFF, beq_iff_eq] at h
    exact ⟨_, congrArg decode h, rfl⟩
  | jp | call | seImm | sneImm | ldImm | addImm | ldI | jpV0 | rnd | unimplDXYN =>
    simp only [OpcodeRow.selects, Instr.row, BitVec.ofNat_eq_ofNat, beq_iff_eq, fieldX_ofNat, Nat.reduceDiv,
      BitVec.reduceOfNat, fieldKK_ofNat, and_F000_eq_iff, fieldOp_ofNat] at h
    simp only [decode, h]
    exact ⟨_, rfl, rfl⟩
  | seReg | sneReg =>
    simp only [OpcodeRow.selects, Instr.row, BitVec.ofNat_eq_ofNat, beq_iff_eq, fieldX_ofNat, Nat.reduceDiv,
      BitVec.reduceOfNat, fieldY_ofNat, and_F00F_eq_iff, fieldOp_ofNat, fieldN_ofNat] at h
    simp only [decode, h]
    exact ⟨_, rfl, rfl⟩
  | ldReg | or | and | xor | addReg | sub | shr | subn | shl =>
    simp only [OpcodeRow.selects, Instr.row, BitVec.ofNat_eq_ofNat, beq_iff_eq, fieldX_ofNat, Nat.reduceDiv,
      BitVec.reduceOfNat, fieldY_ofNat, and_F00F_eq_iff, fieldOp_ofNat, fieldN_ofNat] at h
    simp only [decode, decode8, h]
    exact ⟨_, rfl, rfl⟩
  | unimplEX9E | unimplEXA1 =>
    simp only [OpcodeRow.selects, Instr.row, BitVec.ofNat_eq_ofNat, beq_iff_eq, fieldX_ofNat, Nat.reduceDiv,
      BitVec.reduceOfNat, and_F0FF_eq_iff, fieldOp_ofNat, fieldKK_ofNat] at h
    simp only [decode, decodeE, h]
    exact ⟨_, rfl, rfl⟩
  | unimplFX07 | unimplFX0A | unimplFX15 | unimplFX18 | unimplFX1E | unimplFX29 | unimplFX33 | unimplFX55
  | unimplFX65 =>
    simp only [OpcodeRow.selects, Instr.row, BitVec.ofNat_eq_ofNat, beq_iff_eq, fieldX_ofNat, Nat.reduceDiv,
      BitVec.reduceOfNat, and_F0FF_eq_iff, fieldOp_ofNat, fieldKK_ofNat] at h
    simp only [decode, decodeF, h]
    exact ⟨_, rfl, rfl⟩

/-- The rows are disjoint: each decides the instruction its words decode to. -/
theorem row_eq_of_selects {r r' : OpcodeRow} (hr : r ∈ opcodeMap) (hr' : r' ∈ opcodeMap) (h : r.selects w = true)
    (h' : r'.selects w = true) : r = r' := by
  obtain ⟨i, -, rfl⟩ := List.mem_map.1 hr
  obtain ⟨i', -, rfl⟩ := List.mem_map.1 hr'
  obtain ⟨j, hj, hrow⟩ := decode_of_row_selects h
  obtain ⟨j', hj', hrow'⟩ := decode_of_row_selects h'
  obtain rfl : j = j' := Descriptor.instr.inj (hj.symm.trans hj')
  exact hrow.symm.trans hrow'

theorem decode_eq_unknown_iff_no_row : decode w = .unknown w ↔ ∀ r ∈ opcodeMap, r.selects w = false := by
  constructor
  · intro hunknown r hr
    obtain ⟨i, -, rfl⟩ := List.mem_map.1 hr
    refine Bool.eq_false_iff.2 fun hselects => ?_
    obtain ⟨j, hj, -⟩ := decode_of_row_selects hselects
    exact Descriptor.noConfusion (hj.symm.trans hunknown)
  · intro hnone
    cases hd : decode w with
    | unknown w' => rw [eq_of_decode_eq_unknown hd]
    | instr i => exact absurd (row_selects_of_decode hd) (Bool.eq_false_iff.1 (hnone _ (row_mem_opcodeMap i)))

/-! ## The statements -/

/-- Settles O2: a descriptor's word decodes to it, of an instruction by its fields and of an unknown word by R71. -/
theorem decodeAndEncodeAreInverse : Obligations.DecodeAndEncodeAreInverse := by
  refine ⟨fun d hd => ?_, encodeDescriptor_decode, fun _ => rfl⟩
  cases d with
  | instr i => exact decode_encode i
  | unknown w => exact decode_eq_unknown_iff.2 hd

/-- Settles O3: a word lies in the row of the instruction that encodes to it, and a row decides that instruction. -/
theorem opcodeMapSelectsOneInstruction : Obligations.OpcodeMapSelectsOneInstruction := fun _ =>
  ⟨fun i hi => ⟨row_mem_opcodeMap i, row_selects_of_decode hi⟩, decode_eq_unknown_iff_no_row,
    fun _ => eq_of_decode_eq_unknown, fun _ hr _ hr' => row_eq_of_selects hr hr'⟩

/-- Settles O4, leading nibble by leading nibble. -/
theorem unknownSpaceIsTheSixGroups : Obligations.UnknownSpaceIsTheSixGroups := fun _ => decode_eq_unknown_iff

/-- Settles O1: each known word is an instruction's encoding, and each other lies in the unknown space. -/
theorem knownWordsDecode : Obligations.KnownWordsDecode :=
  ⟨decode_encode .nop, decode_encode .ret, decode_encode .unimpl00E0, decode_encode (.jp 0xABC),
    decode_encode (.call 0xF00), decode_encode (.seImm 0xA 0x7F), decode_encode (.seReg 0x1 0x2),
    decode_encode (.addImm 0xE 0xFF), decode_encode (.shr 0xA 0xB), decode_encode (.shl 0xA 0xB),
    decode_encode (.jpV0 0x123), decode_encode (.rnd 0x3 0xFF), decode_encode (.unimplDXYN 0x1 0x2 0x5),
    decode_encode (.unimplFX65 0x1), decode_eq_unknown_iff.2 rfl, decode_eq_unknown_iff.2 rfl,
    decode_eq_unknown_iff.2 rfl, decode_eq_unknown_iff.2 rfl, decode_eq_unknown_iff.2 rfl⟩

end Sys2Proof
end

section
/-!
PROOFS. The assembler's line of a descriptor (30_encoding.md R73, R74), and where a step leaves PC (R75, R76).
-/

namespace Sys2Proof.Machine

/-! ## The assembler -/

/-- The 13 unimplemented patterns have no mnemonic: their line is `.word` and the word (R73). -/
theorem disassemble_of_unimplemented {i : Instr} (h : i.unimplemented = true) :
    disassemble (.instr i) = ⟨.word, [.word (encode i)]⟩ := by
  cases i with
  | unimpl00E0 | unimplDXYN | unimplEX9E | unimplEXA1 | unimplFX07 | unimplFX0A | unimplFX15 | unimplFX18 | unimplFX1E
  | unimplFX29 | unimplFX33 | unimplFX55 | unimplFX65 => rfl
  | _ => exact absurd h Bool.false_ne_true

theorem assemble_word (w : Word) : assemble ⟨.word, [.word w]⟩ = some w := rfl

/-- V0 is the one register that may stand before the address of `JP` (R73). -/
theorem assemble_jpV0 (nnn : Addr) : assemble ⟨.jp, [.v 0x0, .addr nnn]⟩ = some (encode (.jpV0 nnn)) := rfl

/-- The mnemonic and the kinds of the operands determine the form of R73, and so the instruction. -/
theorem assemble_disassemble_instr (i : Instr) : assemble (disassemble (.instr i)) = some (encode i) := by
  cases i with
  | jpV0 nnn => exact assemble_jpV0 nnn
  | nop | ret | jp | call | seImm | sneImm | seReg | sneReg | ldImm | addImm | ldReg | or | and | xor | addReg | sub
  | shr | subn | shl | ldI | rnd => rfl
  | unimpl00E0 | unimplDXYN | unimplEX9E | unimplEXA1 | unimplFX07 | unimplFX0A | unimplFX15 | unimplFX18 | unimplFX1E
  | unimplFX29 | unimplFX33 | unimplFX55 | unimplFX65 => rw [disassemble_of_unimplemented rfl, assemble_word]

/-! ## PC after an execute phase, from the PC before the fetch -/

theorem zextAddr_eq_ofNat (nnn : Addr) : zextAddr nnn = BitVec.ofNat 16 nnn.toNat := (BitVec.ofNat_toNat 16 nnn).symm

theorem indexedTarget_eq_ofNat (nnn : Addr) (b : Byte) :
    indexedTarget nnn b = BitVec.ofNat 16 ((nnn.toNat + b.toNat) % 4096) := by
  apply BitVec.eq_of_toNat_eq
  rw [indexedTarget_toNat, BitVec.toNat_ofNat]
  omega

variable {s t : State}

/-- A skip taken ends 4 past the fetch, one not taken 2 past it (10_state.md R24). -/
theorem State.skipIf_advancePc_pc (c : Bool) :
    (s.advancePc.skipIf c).pc = if c = true then s.pc + 4 else s.pc + 2 := by
  rw [State.skipIf_pc]
  exact if_congr Iff.rfl (BitVec.add_assoc s.pc 2 2) rfl

/-- CALL ends at its address, or on a full stack past itself (R88, R129). -/
theorem pc_of_execCall_advancePc {nnn : Addr} (h : execCall nnn s.advancePc = .next t) :
    t.pc = if s.sp.val = 16 then s.pc + 2 else zextAddr nnn := by
  split_ifs with hfull
  · rw [execCall_of_full (s := s.advancePc) nnn hfull] at h
    obtain rfl := Host.Outcome.next.inj h
    rfl
  · have hlt : s.sp.val < 16 := by omega
    rw [execCall_of_lt (s := s.advancePc) nnn hlt] at h
    obtain rfl := Host.Outcome.next.inj h
    rfl

/-- RET ends at the entry below SP, or on an empty stack past itself (R86, R130). -/
theorem pc_of_execRet_advancePc (h : execRet s.advancePc = .next t) :
    t.pc = if h : s.sp.val = 0 then s.pc + 2 else s.stack[s.sp.val - 1] := by
  split_ifs with hempty
  · rw [execRet_of_empty (s := s.advancePc) hempty] at h
    obtain rfl := Host.Outcome.next.inj h
    rfl
  · have hsp : s.sp.val = (s.sp.val - 1) + 1 := by omega
    rw [execRet_of_sp (s := s.advancePc) hsp] at h
    obtain rfl := Host.Outcome.next.inj h
    rfl

/-! ## The statements -/

/-- Settles O5: the line of an instruction of R73 assembles to its word, and any other line is `.word`. -/
theorem assemblingALineGivesItsWord : Obligations.AssemblingALineGivesItsWord := fun d => by
  cases d with
  | instr i => exact assemble_disassemble_instr i
  | unknown w => exact assemble_word w

/-- Settles O6: the two bytes are the fetched word. -/
theorem stepRunsDecodedInstruction : Obligations.StepRunsDecodedInstruction := by
  intro s i hrun hdecode
  have hfetch : decode s.fetchWord = .instr i := hdecode
  rw [step_running hrun, hfetch, execute_instr]
  rfl

/-- Settles O12: the fetch's advance of PC stands but for the jumps, CALL, RET and the skips. -/
theorem stepMovesPcByTheTable : Obligations.StepMovesPcByTheTable := by
  intro s t hrun hstep
  rw [step_running hrun] at hstep
  cases hd : decode s.fetchWord with
  | unknown w =>
    rw [hd] at hstep
    obtain rfl := Host.Outcome.next.inj hstep
    rfl
  | instr i =>
    rw [hd, execute_instr] at hstep
    cases i with
    | call nnn => rw [pc_of_execCall_advancePc hstep, zextAddr_eq_ofNat]
    | ret => exact pc_of_execRet_advancePc hstep
    | jp nnn =>
      obtain rfl := Host.Outcome.next.inj hstep
      exact zextAddr_eq_ofNat nnn
    | jpV0 nnn =>
      obtain rfl := Host.Outcome.next.inj hstep
      exact indexedTarget_eq_ofNat nnn _
    | seImm | seReg =>
      obtain rfl := Host.Outcome.next.inj hstep
      rw [State.skipIf_advancePc_pc]
      exact if_congr beq_iff_eq rfl rfl
    | sneImm | sneReg =>
      obtain rfl := Host.Outcome.next.inj hstep
      rw [State.skipIf_advancePc_pc, ← ite_not]
      exact if_congr (by rw [bne_iff_ne, not_not]; rfl) rfl rfl
    | rnd =>
      obtain rfl := Host.Outcome.next.inj hstep
      exact s.advancePc.draw_pc
    | nop | ldI | ldImm | addImm | ldReg | or | and | xor | addReg | sub | shr | subn | shl | unimpl00E0 | unimplDXYN
    | unimplEX9E | unimplEXA1 | unimplFX07 | unimplFX0A | unimplFX15 | unimplFX18 | unimplFX1E | unimplFX29
    | unimplFX33 | unimplFX55 | unimplFX65 =>
      obtain rfl := Host.Outcome.next.inj hstep
      rfl

end Sys2Proof.Machine
end

section
/-!
PROOFS. Control flow (40_control.md R85 to R92): what NOP, JP, CALL, RET and the skips leave, and that calls nested to any
depth the stack has room for are undone by as many returns.
-/

namespace Sys2Proof.Machine

/-! ## The skips -/

/-- A skip on a condition that stands for `P` adds 2 to PC exactly when `P` holds, and writes nothing else (R24). -/
theorem next_skipIf_spec (s : State) {c : Bool} {P : Prop} [Decidable P] (hc : c = true ↔ P) :
    ∃ t, (.next (s.skipIf c) : Host.Outcome State Fault Refusal) = .next t ∧
      (t.pc = if P then s.pc + 2 else s.pc) ∧ OnlyPc s t :=
  ⟨_, rfl, (s.skipIf_pc c).trans (if_congr hc rfl rfl), onlyPc_skipIf s c⟩

/-! ## Several instructions one after the other -/

theorem execAll_cons {i : Instr} {s t : State} (h : exec i s = .next t) (rest : List Instr) :
    execAll (i :: rest) s = execAll rest t := by
  rw [execAll, h]

theorem execAll_append {first : List Instr} {s t : State} (h : execAll first s = .next t) (rest : List Instr) :
    execAll (first ++ rest) s = execAll rest t := by
  induction first generalizing s with
  | nil =>
    obtain rfl := Host.Outcome.next.inj h
    rfl
  | cons i first ih =>
    obtain ⟨u, hu, -⟩ := exec_effect i s
    rw [execAll_cons hu] at h
    rw [List.cons_append, execAll_cons hu, ih h]

/-! ## Nested calls -/

/-- A CALL to each target, each from inside the one before it, and as many RETs. -/
def callsThenReturns (targets : List Addr) : List Instr :=
  targets.map .call ++ List.replicate targets.length .ret

/-- The first call's return is the last: it stands around the calls nested in it. -/
theorem callsThenReturns_cons (nnn : Addr) (rest : List Addr) :
    callsThenReturns (nnn :: rest) = .call nnn :: (callsThenReturns rest ++ [.ret]) := by
  simp [callsThenReturns, List.replicate_succ']

/-- The state CALL leaves on a stack with room (R88). -/
def State.called (s : State) (nnn : Addr) (h : s.sp.val < 16) : State :=
  { s with stack := s.stack.set s.sp.val s.pc h, sp := ⟨s.sp.val + 1, Nat.succ_lt_succ h⟩ }.setPc (zextAddr nnn)

theorem exec_call_eq_called {s : State} (nnn : Addr) (h : s.sp.val < 16) :
    exec (.call nnn) s = .next (s.called nnn h) := execCall_of_lt nnn h

/-- CALL sets the entry at the old SP to the return address, and no other (R88, R26). -/
theorem State.called_entry (s : State) (nnn : Addr) (h : s.sp.val < 16) (k : Nat) (hk : k < 16) :
    (s.called nnn h).stack[k] = if k = s.sp.val then s.pc else s.stack[k] := by
  rw [State.called, State.setPc_stack, Vector.getElem_set]
  exact if_congr eq_comm rfl rfl

/-- RET undoes a CALL where the entry the call pushed still holds the return address (R86). -/
theorem exec_ret_of_called {s : State} {nnn : Addr} (h : s.sp.val < 16) {stack : Vector Word 16}
    (hentry : stack[s.sp.val] = s.pc) :
    exec .ret { s.called nnn h with stack := stack } = .next { s with stack := stack } := by
  have hret := execRet_of_sp (s := { s.called nnn h with stack := stack }) (n := s.sp.val) rfl
  rw [hentry] at hret
  exact hret

/-- Nested calls that fit and their returns leave every field but the stack's entries, and of those every entry below the
first call's: a RET finds the entry its CALL pushed, since the calls between the two keep what is below them (R26). -/
theorem execAll_callsThenReturns (targets : List Addr) (s : State) (hroom : s.sp.val + targets.length ≤ 16) :
    ∃ stack : Vector Word 16, execAll (callsThenReturns targets) s = .next { s with stack := stack } ∧
      ∀ (k : Nat) (hk : k < s.sp.val), stack[k] = s.stack[k] := by
  induction targets generalizing s with
  | nil => exact ⟨s.stack, rfl, fun _ _ => rfl⟩
  | cons nnn rest ih =>
    rw [List.length_cons] at hroom
    have hlt : s.sp.val < 16 := by omega
    have hinner : s.sp.val + 1 + rest.length ≤ 16 := by omega
    obtain ⟨stack, hrun, hbelow⟩ := ih (s.called nnn hlt) hinner
    refine ⟨stack, ?_, fun k hk => ?_⟩
    · have hentry : stack[s.sp.val] = s.pc := by
        rw [hbelow _ (Nat.lt_succ_self _), State.called_entry, if_pos rfl]
      rw [callsThenReturns_cons, execAll_cons (exec_call_eq_called nnn hlt), execAll_append hrun,
        execAll_cons (exec_ret_of_called hlt hentry), execAll]
    · rw [hbelow k (Nat.lt_succ_of_lt hk), State.called_entry, if_neg (Nat.ne_of_lt hk)]

/-! ## The statements -/

/-- Settles O17: each comparison is the condition of a skip. -/
theorem skipsAdvancePcOnTheirComparison : Obligations.SkipsAdvancePcOnTheirComparison := fun _ _ _ s =>
  ⟨⟨rfl, next_skipIf_spec s beq_iff_eq⟩, ⟨rfl, next_skipIf_spec s bne_iff_ne⟩,
    ⟨rfl, next_skipIf_spec s beq_iff_eq⟩, ⟨rfl, next_skipIf_spec s bne_iff_ne⟩⟩

/-- Settles O18: the push sets the entry at the old SP, and the rest of the state is not named by it. -/
theorem callPushesReturnAddress : Obligations.CallPushesReturnAddress := fun nnn s hroom =>
  ⟨_, exec_call_eq_called nnn hroom, zextAddr_toNat nnn, rfl, s.called_entry nnn hroom, fun _ _ => rfl, rfl,
    fun _ => rfl, ⟨rfl, rfl⟩, ⟨rfl, rfl⟩, rfl, rfl, rfl⟩

/-- Settles O20: the pop takes the entry below SP and clears nothing. -/
theorem retPopsReturnAddress : Obligations.RetPopsReturnAddress := fun s hpos =>
  have hsp : s.sp.val = s.sp.val - 1 + 1 := by omega
  ⟨_, execRet_of_sp hsp, rfl, rfl, rfl, fun _ _ => rfl, rfl, fun _ => rfl, ⟨rfl, rfl⟩, ⟨rfl, rfl⟩, rfl, rfl, rfl⟩

/-- Settles O22: nested calls and their returns leave every field but the stack's entries. -/
theorem nestedCallsReturnInOrder : Obligations.NestedCallsReturnInOrder := fun targets s hroom =>
  have ⟨_, hrun, hbelow⟩ := execAll_callsThenReturns targets s hroom
  ⟨_, hrun, rfl, rfl, hbelow, fun _ _ => rfl, rfl, fun _ => rfl, ⟨rfl, rfl⟩, ⟨rfl, rfl⟩, rfl⟩

/-- Settles O15: the word 0x0000 is NOP's encoding, so it decodes to NOP. -/
theorem nopOnlyAdvancesPc : Obligations.NopOnlyAdvancesPc :=
  ⟨rfl, fun _ => rfl, fun s hrun hword => by
    have hdecode : decode s.fetchWord = .instr .nop := hword ▸ decode_encode .nop
    exact stepRunsDecodedInstruction s .nop hrun hdecode⟩

/-- Settles O16: the address is zero-extended, and PC is the only field written. -/
theorem jumpLoadsPc : Obligations.JumpLoadsPc := fun nnn s =>
  ⟨rfl, _, rfl, zextAddr_toNat nnn, onlyPc_setPc s _⟩

end Sys2Proof.Machine
end

section
/-!
PROOFS. Register loads and arithmetic (41_load_alu.md R93 to R105): what the loads, the logic and the five flag writers
leave, and that a shift reads only the register the quirk selects.
-/

namespace Sys2Proof.Machine

/-! ## The register file: write after write -/

theorem State.setV_setV_same (s : State) (x : Nibble) (b c : Byte) : (s.setV x b).setV x c = s.setV x c := by
  simp [State.setV]

theorem State.setV_comm (s : State) {x y : Nibble} (h : x ≠ y) (b c : Byte) :
    (s.setV x b).setV y c = (s.setV y c).setV x b := by
  have hne : x.toNat ≠ y.toNat := fun he => h (BitVec.eq_of_toNat_eq he)
  simp only [State.setV, Vector.set_comm _ _ hne]

/-! ## A result and its flag (R94, decision D9) -/

/-- VF holds the flag, whatever the destination is. -/
theorem State.getV_flag_setResultAndFlag (s : State) (x : Nibble) (b f : Byte) :
    (s.setResultAndFlag x b f).getV 0xF = f := State.getV_setV_same _ flagIndex f

/-- A destination other than VF holds the result. -/
theorem State.getV_dest_setResultAndFlag (s : State) {x : Nibble} (hx : x ≠ 0xF) (b f : Byte) :
    (s.setResultAndFlag x b f).getV x = b :=
  (State.getV_setV_other (x := flagIndex) _ f hx).trans (s.getV_setV_same x b)

/-- What the destination held is lost. -/
theorem State.setResultAndFlag_setV_dest (s : State) (x : Nibble) (b r f : Byte) :
    (s.setV x b).setResultAndFlag x r f = s.setResultAndFlag x r f := by
  simp only [State.setResultAndFlag, State.setV_setV_same]

/-- What another register held stays, and in VF it is lost. -/
theorem State.setResultAndFlag_setV_other (s : State) {x y : Nibble} (h : x ≠ y) (b r f : Byte) :
    (s.setV y b).setResultAndFlag x r f =
      if y = 0xF then s.setResultAndFlag x r f else (s.setResultAndFlag x r f).setV y b := by
  simp only [State.setResultAndFlag, s.setV_comm h.symm]
  split
  · next hy => subst hy; exact State.setV_setV_same _ flagIndex b f
  · next hy => exact State.setV_comm _ hy b f

/-- A flag's byte is the number of its condition. -/
theorem flagByte_decide (P : Prop) [Decidable P] : flagByte (decide P) = if P then 1 else 0 := by
  simp only [flagByte, decide_eq_true_eq]

/-- The difference is taken on integers (R93). -/
theorem diffResult_toNat_int (a b : Byte) : ((diffResult a b).toNat : Int) = (a.toNat - b.toNat : Int) % 256 := by
  rw [diffResult, BitVec.toNat_ofInt]
  exact Int.toNat_of_nonneg (Int.emod_nonneg _ (by decide))

/-- A difference in V[X] and its not-borrow in VF, written last, over a difference there (R102, R104). -/
theorem next_difference_spec (s : State) (x : Nibble) (a b : Byte) :
    ∃ t, (.next (s.setResultAndFlag x (diffResult a b) (notBorrowFlag a b)) : Host.Outcome State Fault Refusal) = .next t ∧
      OnlyRegisters [x, 0xF] s t ∧ t.getV 0xF = (if a.toNat ≥ b.toNat then 1 else 0) ∧
      (x ≠ 0xF → ((t.getV x).toNat : Int) = (a.toNat - b.toNat : Int) % 256) :=
  ⟨_, rfl, onlyRegisters_setResultAndFlag s x _ _,
    (s.getV_flag_setResultAndFlag x _ _).trans (flagByte_decide _),
    fun hx => by rw [s.getV_dest_setResultAndFlag hx, diffResult_toNat_int]⟩

/-! ## The bitwise results -/

/-- A byte put in V[X] is there bit by bit, and nothing else is written. -/
theorem next_setV_bits (s : State) (x : Nibble) {b : Byte} {bit : ∀ k : Nat, k < 8 → Bool}
    (hb : ∀ (k : Nat) (hk : k < 8), b[k] = bit k hk) :
    ∃ t, (.next (s.setV x b) : Host.Outcome State Fault Refusal) = .next t ∧ OnlyRegisters [x] s t ∧
      ∀ (k : Nat) (hk : k < 8), (t.getV x)[k] = bit k hk :=
  ⟨_, rfl, onlyRegisters_setV s x b, by rw [State.getV_setV_same]; exact hb⟩

/-! ## The shifts (R103, R105) -/

/-- The source of a shift is the register the quirk selects. -/
theorem State.shiftSource_eq_getV (s : State) (x y : Nibble) :
    s.shiftSource x y = s.getV (if s.cfg.shiftSourceVy then y else x) := (apply_ite s.getV _ _ _).symm

/-- A register the quirk does not select is no source. -/
theorem State.shiftSource_setV (s : State) {x y r : Nibble} (h : (if s.cfg.shiftSourceVy then y else x) ≠ r)
    (b : Byte) : (s.setV r b).shiftSource x y = s.shiftSource x y := by
  rw [State.shiftSource_eq_getV, State.shiftSource_eq_getV, State.setV_cfg, State.getV_setV_other _ b h]

/-- A shift leaves a result and a flag that depend on the source alone. -/
theorem exec_shift {i : Instr} {x y : Nibble} (hi : i = .shr x y ∨ i = .shl x y) :
    ∃ result flag : Byte → Byte, ∀ s : State,
      exec i s = .next (s.setResultAndFlag x (result (s.shiftSource x y)) (flag (s.shiftSource x y))) := by
  rcases hi with rfl | rfl
  · exact ⟨shrResult, shrFlag, fun _ => rfl⟩
  · exact ⟨shlResult, shlFlag, fun _ => rfl⟩

/-! ## The statements -/

/-- Settles O25: each result has its bits by the definition of the bitwise operation. -/
theorem logicWorksBitByBit : Obligations.LogicWorksBitByBit := fun x _ s =>
  ⟨next_setV_bits s x fun _ hk => BitVec.getElem_or hk, next_setV_bits s x fun _ hk => BitVec.getElem_and hk,
    next_setV_bits s x fun _ hk => BitVec.getElem_xor hk⟩

/-- Settles O26: the carry is written last, over a sum in VF. -/
theorem addSetsSumAndCarry : Obligations.AddSetsSumAndCarry := fun x _ s =>
  ⟨_, rfl, onlyRegisters_setResultAndFlag s x _ _,
    (s.getV_flag_setResultAndFlag x _ _).trans (flagByte_decide _),
    fun hx => by rw [s.getV_dest_setResultAndFlag hx, sumResult_toNat]⟩

/-- Settles O27: the difference and not-borrow of V[X] - V[Y]. -/
theorem subSetsDifferenceAndNotBorrow : Obligations.SubSetsDifferenceAndNotBorrow := fun x y s =>
  next_difference_spec s x (s.getV x) (s.getV y)

/-- Settles O28: the difference and not-borrow of V[Y] - V[X]. -/
theorem subnSetsReverseDifferenceAndNotBorrow : Obligations.SubnSetsReverseDifferenceAndNotBorrow := fun x y s =>
  next_difference_spec s x (s.getV y) (s.getV x)

/-- Settles O29: bit 0 of the selected source in VF, its half in any other destination. -/
theorem shrHalvesTheSelectedSource : Obligations.ShrHalvesTheSelectedSource := fun x y s =>
  ⟨_, rfl, onlyRegisters_setResultAndFlag s x _ _,
    by rw [s.getV_flag_setResultAndFlag, shrFlag_toNat, s.shiftSource_eq_getV],
    fun hx => by rw [s.getV_dest_setResultAndFlag hx, shrResult_toNat, s.shiftSource_eq_getV]⟩

/-- Settles O30: bit 7 of the selected source in VF, its double in any other destination. -/
theorem shlDoublesTheSelectedSource : Obligations.ShlDoublesTheSelectedSource := fun x y s =>
  ⟨_, rfl, onlyRegisters_setResultAndFlag s x _ _,
    by rw [s.getV_flag_setResultAndFlag, shlFlag_toNat, s.shiftSource_eq_getV],
    fun hx => by rw [s.getV_dest_setResultAndFlag hx, shlResult_toNat, s.shiftSource_eq_getV]⟩

/-- Settles O31: the other register is not the source, and as the destination or VF it is written over. -/
theorem shiftIgnoresTheOtherRegister : Obligations.ShiftIgnoresTheOtherRegister := by
  intro i x y b s hi hxy
  obtain ⟨result, flag, hexec⟩ := exec_shift hi
  refine ⟨fun hquirk => ?_, fun hquirk => ?_⟩
  · have hsource : (s.setV x b).shiftSource x y = s.shiftSource x y :=
      s.shiftSource_setV (by simpa [hquirk] using hxy.symm) b
    rw [hexec, hexec, hsource, s.setResultAndFlag_setV_dest]
  · have hsource : (s.setV y b).shiftSource x y = s.shiftSource x y :=
      s.shiftSource_setV (by simpa [hquirk] using hxy) b
    rw [hexec, hexec, hsource, s.setResultAndFlag_setV_other hxy, mapNext]

/-- Settles O23: V[X] holds what was put in it, and no other field is written. -/
theorem loadsSetTheDestination : Obligations.LoadsSetTheDestination := fun x _ _ s =>
  ⟨⟨rfl, _, rfl, s.getV_setV_same x _, onlyRegisters_setV s x _⟩,
    ⟨rfl, _, rfl, s.getV_setV_same x _, onlyRegisters_setV s x _⟩⟩

/-- Settles O24: the sum modulo 256 is put in V[X], and no flag is written. -/
theorem addImmediateWrapsWithoutFlag : Obligations.AddImmediateWrapsWithoutFlag := fun x _ s =>
  ⟨rfl, _, rfl, by rw [State.getV_setV_same, sumResult_toNat], onlyRegisters_setV s x _⟩

end Sys2Proof.Machine
end

section
/-!
PROOFS. The index register, the indexed jump and the random byte (42_index_jump_random.md R106 to R108): what each
leaves, and what a draw takes from the supplied bytes.
-/

namespace Sys2Proof.Machine

/-! ## I, masked on write and on read (10_state.md R23) -/

/-- The mask of the write keeps a zero-extended 12-bit address, which is below 4096. -/
theorem State.setI_zextAddr_i_toNat (s : State) (nnn : Addr) : (s.setI (zextAddr nnn)).i.toNat = nnn.toNat := by
  rw [State.setI_i, BitVec.ofNat_eq_ofNat, and_0FFF_toNat, zextAddr_toNat, Nat.mod_eq_of_lt nnn.isLt]

theorem State.setI_zextAddr_getI_toNat (s : State) (nnn : Addr) : (s.setI (zextAddr nnn)).getI.toNat = nnn.toNat := by
  rw [State.getI_toNat, s.setI_zextAddr_i_toNat, Nat.mod_eq_of_lt nnn.isLt]

/-! ## The draw and the masked byte (R108) -/

/-- A mask only clears bits. -/
theorem and_toNat_le_mask (r kk : Byte) : (r &&& kk).toNat ≤ kk.toNat := by
  rw [BitVec.toNat_and]
  exact Nat.and_le_right

/-- A draw and the write of its result change nothing of what KeepsStorage covers. -/
theorem keepsStorage_draw_setV (s : State) (x : Nibble) (b : Byte) : KeepsStorage s (s.draw.2.setV x b) :=
  .of_fields s.draw_mem s.draw_sp s.draw_stack s.draw_dt s.draw_st s.draw_cfg s.draw_run

/-! ## The statements -/

/-- Settles O34: the byte is the one State.draw answers, which is the next supplied one by its first case and a counted
free value by its second; V[X] takes it masked, and the frames of the draw and of the write give the rest. -/
theorem randomMasksOneDrawnByte : Obligations.RandomMasksOneDrawnByte := by
  intro x kk s
  have hresult : (s.draw.2.setV x (s.draw.1 &&& kk)).getV x = s.draw.1 &&& kk := State.getV_setV_same _ x _
  refine ⟨s.draw.1, s.draw.2.setV x (s.draw.1 &&& kk), rfl, hresult, ?below, ?supplied, ?free,
    (ExecFrame.rnd x kk _).registers, s.draw_i, s.draw_pc, keepsStorage_draw_setV s x _, s.draw_diagnostics⟩
  case below =>
    rw [hresult]
    exact and_toNat_le_mask s.draw.1 kk
  case supplied =>
    intro b rest hrand
    rw [State.draw_of_cons hrand]
    exact ⟨rfl, rfl, rfl⟩
  case free =>
    intro hrand
    rw [State.draw_of_nil hrand]
    exact ⟨hrand, rfl⟩

/-- Settles O32: the address fits in the 12 bits of I's mask, on write and on read, and I is the only field written. -/
theorem loadIndexSetsI : Obligations.LoadIndexSetsI := fun nnn s =>
  ⟨rfl, _, rfl, s.setI_zextAddr_i_toNat nnn, s.setI_zextAddr_getI_toNat nnn, fun _ _ => rfl, rfl,
    .of_fields rfl rfl rfl rfl rfl rfl rfl, rfl, rfl, rfl⟩

/-- Settles O33: the mask of the target is reduction modulo 4096, and PC is the only field written. -/
theorem indexedJumpWrapsAt4096 : Obligations.IndexedJumpWrapsAt4096 := fun nnn s =>
  ⟨rfl, _, rfl, indexedTarget_toNat nnn _, onlyPc_setPc s _⟩

end Sys2Proof.Machine
end

section
/-!
PROOFS. The unimplemented opcodes, the unknown words and the reserved quirk (43_unimplemented.md R109 to R124): each of
the 13 opcodes and each unknown word only reports, and a tick commutes with a change of the quirk.
-/

namespace Sys2Proof.Machine

/-! ## What a raise of UnknownOpcode appends -/

/-- The record carries code 1 and the address before the fetch's advance of PC (R126, R127). -/
theorem State.raise_unknownOpcode_diagnostics (s : State) (w : Word) :
    (s.raise .unknownOpcode w).diagnostics =
      s.diagnostics ++ [{ code := 1, kind := .unknownOpcode, pc := s.pc - 2, word := w }] := rfl

/-- In a step the record's address is that of the fetch, and PC's advance is the only other change (R123). -/
theorem State.advancePc_raise_unknownOpcode (s : State) (w : Word) :
    s.advancePc.raise .unknownOpcode w = { s with
      pc := s.pc + 2
      diagnostics := s.diagnostics ++ [{ code := 1, kind := .unknownOpcode, pc := s.pc, word := w }] } := by
  rw [State.raise, State.fetchedFrom_advancePc]
  rfl

/-! ## Another value of the reserved quirk (R124) -/

variable (b : Bool) (s : State)

theorem State.skipIf_withLoadStoreQuirk (c : Bool) :
    (s.withLoadStoreQuirk b).skipIf c = (s.skipIf c).withLoadStoreQuirk b := by cases c <;> rfl

theorem State.draw_withLoadStoreQuirk :
    (s.withLoadStoreQuirk b).draw = (s.draw.1, s.draw.2.withLoadStoreQuirk b) := by
  cases h : s.rand with
  | nil => rw [State.draw_of_nil h, State.draw_of_nil (s := s.withLoadStoreQuirk b) h]; rfl
  | cons r rest => rw [State.draw_of_cons h, State.draw_of_cons (s := s.withLoadStoreQuirk b) h]; rfl

theorem execCall_withLoadStoreQuirk (nnn : Addr) :
    execCall nnn (s.withLoadStoreQuirk b) = mapNext (·.withLoadStoreQuirk b) (execCall nnn s) := by
  by_cases h : s.sp.val < 16
  · rw [execCall_of_lt nnn h, execCall_of_lt (s := s.withLoadStoreQuirk b) nnn h]; rfl
  · have hfull : s.sp.val = 16 := by omega
    rw [execCall_of_full nnn hfull, execCall_of_full (s := s.withLoadStoreQuirk b) nnn hfull]; rfl

theorem execRet_withLoadStoreQuirk :
    execRet (s.withLoadStoreQuirk b) = mapNext (·.withLoadStoreQuirk b) (execRet s) := by
  cases h : s.sp.val with
  | zero => rw [execRet_of_empty h, execRet_of_empty (s := s.withLoadStoreQuirk b) h]; rfl
  | succ n => rw [execRet_of_sp h, execRet_of_sp (s := s.withLoadStoreQuirk b) h]; rfl

/-- No instruction reads the reserved quirk or writes it; the shifts read another field of the configuration. -/
theorem exec_withLoadStoreQuirk (i : Instr) :
    exec i (s.withLoadStoreQuirk b) = mapNext (·.withLoadStoreQuirk b) (exec i s) := by
  cases i with
  | ret => exact execRet_withLoadStoreQuirk b s
  | call nnn => exact execCall_withLoadStoreQuirk b s nnn
  | rnd x kk => rw [exec, execRnd, State.draw_withLoadStoreQuirk]; rfl
  | seImm | sneImm | seReg | sneReg => exact congrArg Host.Outcome.next (State.skipIf_withLoadStoreQuirk b s _)
  | nop | jp | jpV0 | ldI | ldImm | addImm | ldReg | or | and | xor | addReg | sub | shr | subn | shl => rfl
  | unimpl00E0 | unimplDXYN | unimplEX9E | unimplEXA1 | unimplFX07 | unimplFX0A | unimplFX15 | unimplFX18 | unimplFX1E
  | unimplFX29 | unimplFX33 | unimplFX55 | unimplFX65 => rfl

theorem execute_withLoadStoreQuirk (d : Descriptor) :
    execute d (s.withLoadStoreQuirk b) = mapNext (·.withLoadStoreQuirk b) (execute d s) := by
  cases d with
  | instr i => exact exec_withLoadStoreQuirk b s i
  | unknown w => rfl

theorem step_withLoadStoreQuirk :
    step (s.withLoadStoreQuirk b) = mapNext (·.withLoadStoreQuirk b) (step s) := by
  cases h : s.run with
  | halted => rw [step_halted h, step_halted (s := s.withLoadStoreQuirk b) h]; rfl
  | running =>
    rw [step_running h, step_running (s := s.withLoadStoreQuirk b) h]
    exact execute_withLoadStoreQuirk b s.advancePc (decode s.fetchWord)

/-- A frame runs and counts the same steps, step by step, from a state that differs in the quirk alone (R140). -/
theorem runSteps_withLoadStoreQuirk (n executed : Nat) :
    runSteps n executed (s.withLoadStoreQuirk b) =
      mapNext (fun p => (p.1.withLoadStoreQuirk b, p.2)) (runSteps n executed s) := by
  induction n generalizing executed s with
  | zero => rfl
  | succ n ih =>
    obtain ⟨t, ht, -⟩ := step_effect s
    have hquirk : step (s.withLoadStoreQuirk b) = .next (t.withLoadStoreQuirk b) := by
      rw [step_withLoadStoreQuirk, ht, mapNext]
    rw [runSteps_succ ht, runSteps_succ hquirk, ih]

/-! ## The statements -/

/-- Settles O35: each of the 13 is unimplemented, and those share one effect. -/
theorem unimplementedOpcodesOnlyReport : Obligations.UnimplementedOpcodesOnlyReport := by
  intro x y n s i hi
  have hunimpl : i.unimplemented = true := List.all_eq_true.1 rfl i hi
  exact ⟨_, exec_of_unimplemented s hunimpl, onlyRecords_raise s _ _, s.raise_unknownOpcode_diagnostics _⟩

/-- Settles O36: the steps of a tick commute with a change of the quirk, and its start, its decrement and its outcome
name other fields. -/
theorem loadStoreQuirkHasNoEffect : Obligations.LoadStoreQuirkHasNoEffect := by
  intro rand ext b s
  cases h : s.run with
  | halted => rw [tick_halted h, tick_halted (s := s.withLoadStoreQuirk b) h]; rfl
  | running =>
    obtain ⟨t, ht, -⟩ := runSteps_keeps (P := fun _ => True) (fun _ _ _ h => h) s.cfg.cyclesPerFrame 0
      (s.beginTick rand) trivial
    have hquirk : runSteps s.cfg.cyclesPerFrame 0 ((s.withLoadStoreQuirk b).beginTick rand) =
        .next (t.withLoadStoreQuirk b, 0 + s.cfg.cyclesPerFrame) :=
      (runSteps_withLoadStoreQuirk b (s.beginTick rand) _ 0).trans (congrArg _ ht)
    rw [tick_running h ht]
    exact tick_running (s := s.withLoadStoreQuirk b) h hquirk ext

/-- Settles O7: the two bytes are the fetched word, and the raise of an unknown word is on the advanced PC. -/
theorem stepReportsUnknownWord : Obligations.StepReportsUnknownWord := by
  intro s w hrun hdecode
  have hfetch : decode s.fetchWord = .unknown w := hdecode
  rw [step_running hrun, hfetch, execute_unknown, State.advancePc_raise_unknownOpcode]

end Sys2Proof.Machine
end

section
/-!
PROOFS. Errors (60_exceptions.md R125 to R135): every step completes, it reports at most the one error of its word, and
that report is all it does; CALL on a full stack, RET on an empty one, and a program that does not fit.
-/

namespace Sys2Proof.Machine

/-! ## The words of CALL and RET -/

theorem packNNN_eq_ofNat (op : Nibble) (nnn : Addr) :
    packNNN op nnn = BitVec.ofNat 16 (op.toNat * 4096 + nnn.toNat) := by
  apply BitVec.eq_of_toNat_eq
  have hop := op.isLt
  have hnnn := nnn.isLt
  rw [packNNN, BitVec.toNat_append, ← Nat.shiftLeft_add_eq_or_of_lt hnnn, Nat.shiftLeft_eq, BitVec.toNat_ofNat]
  omega

theorem encode_call_eq_ofNat (nnn : Addr) : encode (.call nnn) = BitVec.ofNat 16 (0x2000 + nnn.toNat) :=
  packNNN_eq_ofNat 0x2 nnn

/-! ## What an execute phase reports -/

/-- In a step the record of a raise names the address of the fetch, and PC's advance is the only other change
(R127, R135). -/
theorem State.advancePc_raise (s : State) (k : ErrorKind) (w : Word) :
    s.advancePc.raise k w = { s with
      pc := s.pc + 2
      diagnostics := s.diagnostics ++ [{ code := k.code, kind := k, pc := s.pc, word := w }] } := by
  rw [State.raise, State.fetchedFrom_advancePc]
  rfl

/-- The error R134 gives an instruction's execute phase, if any. -/
def State.execRaises (s : State) : Instr → Option ErrorKind
  | .ret => if s.sp.val = 0 then some .stackUnderflow else none
  | .call _ => if s.sp.val = 16 then some .stackOverflow else none
  | i => if i.unimplemented then some .unknownOpcode else none

/-- What an execute phase does to the list: with no error the list stands, and with one the raise is all it does. -/
def ReportsOnly (s t : State) (w : Word) : Option ErrorKind → Prop
  | none => KeepsRecords s t
  | some k => t = s.raise k w

theorem execCall_reports (nnn : Addr) (s : State) :
    ∃ t, execCall nnn s = .next t ∧ ReportsOnly s t (encode (.call nnn)) (s.execRaises (.call nnn)) := by
  by_cases h : s.sp.val = 16
  · rw [State.execRaises, if_pos h]
    exact ⟨_, execCall_of_full nnn h, rfl⟩
  · have hlt : s.sp.val < 16 := by omega
    rw [State.execRaises, if_neg h]
    exact ⟨_, execCall_of_lt nnn hlt, rfl⟩

theorem execRet_reports (s : State) :
    ∃ t, execRet s = .next t ∧ ReportsOnly s t (encode .ret) (s.execRaises .ret) := by
  by_cases h : s.sp.val = 0
  · rw [State.execRaises, if_pos h]
    exact ⟨_, execRet_of_empty h, rfl⟩
  · have hsp : s.sp.val = s.sp.val - 1 + 1 := by omega
    rw [State.execRaises, if_neg h]
    exact ⟨_, execRet_of_sp hsp, rfl⟩

/-- Only CALL, RET and the unimplemented instructions raise, and what they raise carries their word (R134). -/
theorem exec_reports (i : Instr) (s : State) :
    ∃ t, exec i s = .next t ∧ ReportsOnly s t (encode i) (s.execRaises i) := by
  cases i with
  | ret => exact execRet_reports s
  | call nnn => exact execCall_reports nnn s
  | seImm | sneImm | seReg | sneReg => exact ⟨_, rfl, s.skipIf_diagnostics _⟩
  | rnd => exact ⟨_, rfl, s.draw_diagnostics⟩
  | nop | jp | jpV0 | ldI | ldImm | addImm | ldReg | or | and | xor | addReg | sub | shr | subn | shl =>
    exact ⟨_, rfl, rfl⟩
  | unimpl00E0 | unimplDXYN | unimplEX9E | unimplEXA1 | unimplFX07 | unimplFX0A | unimplFX15 | unimplFX18 | unimplFX1E
  | unimplFX29 | unimplFX33 | unimplFX55 | unimplFX65 => exact ⟨_, exec_of_unimplemented s rfl, rfl⟩

variable {s : State}

theorem State.stepRaises_of_unknown {w : Word} (h : decode s.fetchWord = .unknown w) :
    s.stepRaises = some .unknownOpcode := by
  rw [State.stepRaises, h]

/-- The fetch's advance of PC changes no stack, so it changes no error. -/
theorem State.stepRaises_of_instr {i : Instr} (h : decode s.fetchWord = .instr i) :
    s.stepRaises = s.advancePc.execRaises i := by
  rw [State.stepRaises, h]
  cases i <;> rfl

/-- A Running step reports the error of its word and nothing else; the record carries the word that was fetched (R68). -/
theorem step_reports (hrun : s.run = .running) :
    ∃ t, step s = .next t ∧ ReportsOnly s.advancePc t s.fetchWord s.stepRaises := by
  rw [step_running hrun]
  cases h : decode s.fetchWord with
  | unknown w =>
    rw [State.stepRaises_of_unknown h, ← eq_of_decode_eq_unknown h]
    exact ⟨_, execute_unknown _ w, rfl⟩
  | instr i =>
    rw [State.stepRaises_of_instr h, ← encode_of_decode h]
    exact exec_reports i s.advancePc

/-! ## A program that does not fit -/

/-- LOAD_PROGRAM of more bytes than there are from 0x200 up (R132). -/
theorem State.loadProgram_of_oversized (s : State) {bytes : List Byte} (h : Config.programMax < bytes.length) :
    s.loadProgram bytes = ({ s with run := .halted }, .outOfSpace) := by
  rw [State.loadProgram, if_pos h]

/-! ## The statements -/

/-- Settles O10: the effect of a step leaves the execution state. -/
theorem everyStepCompletes : Obligations.EveryStepCompletes := fun s =>
  have ⟨t, hstep, effect⟩ := step_effect s
  ⟨t, hstep, effect.session.2⟩

/-- Settles O13, by what a step reports; the address in the record is that of the fetch. -/
theorem raisingStepIsPrecise : Obligations.RaisingStepIsPrecise := by
  intro s t hrun hstep
  have hreports := holds_of_next (step_reports hrun) hstep
  cases h : s.stepRaises with
  | none =>
    rw [h] at hreports
    exact hreports
  | some k =>
    rw [h] at hreports
    exact hreports.trans (s.advancePc_raise k s.fetchWord)

/-- Settles O19: without room the push fails, and CALL only raises. -/
theorem callOnFullStackReports : Obligations.CallOnFullStackReports := fun nnn s hfull =>
  ⟨_, execCall_of_full nnn hfull, onlyRecords_raise s _ _, by rw [encode_call_eq_ofNat]; rfl⟩

/-- Settles O9: no step runs while Halted. -/
theorem haltedStepChangesNothing : Obligations.HaltedStepChangesNothing := fun _ => step_halted

/-- Settles O21: without an entry the pop fails, and RET only raises. -/
theorem retOnEmptyStackReports : Obligations.RetOnEmptyStackReports := fun s hempty =>
  ⟨_, execRet_of_empty hempty, onlyRecords_raise s _ _, rfl⟩

/-- Settles O44: the program is refused before its first byte is written. -/
theorem oversizedProgramHalts : Obligations.OversizedProgramHalts := fun bytes s hlong => by
  rw [transact_loadProgram, State.loadProgram_of_oversized s hlong]

end Sys2Proof.Machine
end

section
/-!
PROOFS. The frame tick (60_exceptions.md R139 to R144) and the Halted core (R148): what the steps of a tick leave alone and
report, the decrement after them, and what is kept over a session of ticks and over one without a RESET.
-/

namespace Sys2Proof.Machine

variable {s t : State}

/-! ## The steps of a frame -/

/-- The machine behind the host's interface runs on from the next state of a step. -/
theorem core_run_succ (h : step s = .next t) (n : Nat) :
    Host.Core.run Sys2Proof.core (n + 1) s = Host.Core.run Sys2Proof.core n t := by
  have hcore : Sys2Proof.core.step s = .next t := h
  simp only [Host.Core.run, hcore]

/-- The steps a frame counts are steps of that machine (R140). -/
theorem core_run_of_runSteps {n executed m : Nat} (h : runSteps n executed s = .next (t, m)) :
    Host.Core.run Sys2Proof.core n s = .next t := by
  induction n generalizing executed s with
  | zero =>
    obtain ⟨rfl, -⟩ := Prod.mk.inj (Host.Outcome.next.inj h)
    rfl
  | succ n ih =>
    obtain ⟨u, hu, -⟩ := step_effect s
    rw [runSteps_succ hu] at h
    rw [core_run_succ hu, ih h]

/-- The list of records after at most `n` steps of a tick: at most one for each, and each one a step may append. -/
def ReportsAtMost (n : Nat) (s : State) : Prop :=
  s.diagnostics.length ≤ n ∧ ∀ d ∈ s.diagnostics, d.wellFormed = true

theorem ReportsAtMost.of_step {n : Nat} (h : ReportsAtMost n s) (hstep : step s = .next t) : ReportsAtMost (n + 1) t := by
  obtain ⟨hlength, hwf⟩ := h
  rcases (holds_of_next (step_effect s) hstep).records with hsame | ⟨e, he, happend⟩
  · rw [ReportsAtMost, hsame]
    exact ⟨Nat.le_succ_of_le hlength, hwf⟩
  · rw [ReportsAtMost, happend, List.length_append, List.forall_mem_append, List.forall_mem_singleton]
    exact ⟨Nat.succ_le_succ hlength, hwf, he⟩

theorem ReportsAtMost.of_runSteps {n executed m : Nat} (hs : ReportsAtMost executed s)
    (h : runSteps n executed s = .next (t, m)) : ReportsAtMost m t := by
  induction n generalizing executed s with
  | zero =>
    obtain ⟨rfl, rfl⟩ := Prod.mk.inj (Host.Outcome.next.inj h)
    exact hs
  | succ n ih =>
    obtain ⟨u, hu, -⟩ := step_effect s
    rw [runSteps_succ hu] at h
    exact ih (hs.of_step hu) h

/-- The timers, the configuration and the execution state stand: what a step leaves for the end of the tick. -/
def KeepsFrame (s t : State) : Prop := KeepsTimers s t ∧ KeepsSession s t

theorem KeepsFrame.of_step {s₀ : State} (h : KeepsFrame s₀ s) (hstep : step s = .next t) : KeepsFrame s₀ t := by
  have effect := holds_of_next (step_effect s) hstep
  obtain ⟨⟨hdt, hst⟩, hcfg, hrun⟩ := h
  exact ⟨⟨effect.timers.1.trans hdt, effect.timers.2.trans hst⟩, effect.session.1.trans hcfg,
    effect.session.2.trans hrun⟩

/-! ## The tick -/

/-- A Running tick decrements and hands out the state `u` that its budget of steps leaves; the steps changed nothing of
what the decrement and the buzzer read (R140). -/
theorem tick_runs_budget (hrun : s.run = .running) (rand : List Byte) (ext : Bool) :
    ∃ u, runSteps s.cfg.cyclesPerFrame 0 (s.beginTick rand) = .next (u, s.cfg.cyclesPerFrame) ∧
      tick rand ext s = .next (u.decrementTimers.finishTick s.cfg.cyclesPerFrame ext) ∧ KeepsFrame s u := by
  obtain ⟨u, hu, hframe⟩ := runSteps_keeps (P := KeepsFrame s) (fun _ _ hstep h => h.of_step hstep)
    s.cfg.cyclesPerFrame 0 (s.beginTick rand) ⟨⟨rfl, rfl⟩, rfl, rfl⟩
  rw [Nat.zero_add] at hu
  exact ⟨u, hu, tick_running hrun hu ext, hframe⟩

/-- What a Running tick does to the timers, in numbers, and that the core stays Running (R141, R139). -/
theorem tick_timers (hrun : s.run = .running) (rand : List Byte) (ext : Bool) :
    ∃ t o, tick rand ext s = .next (t, o) ∧ t.run = .running ∧ t.dt.toNat = s.dt.toNat - 1 ∧
      t.st.toNat = s.st.toNat - 1 := by
  obtain ⟨u, -, htick, ⟨hdt, hst⟩, -, hurun⟩ := tick_runs_budget hrun rand ext
  exact ⟨_, _, htick, hurun.trans hrun, hdt ▸ decTimer_toNat u.dt, hst ▸ decTimer_toNat u.st⟩

/-- With nothing transient there to drop, the start of a tick and its end leave the state. -/
theorem State.Quiescent.endTick_beginTick (h : s.Quiescent) (rand : List Byte) : (s.beginTick rand).endTick = s := by
  obtain ⟨hrecords, hrand⟩ := h
  calc (s.beginTick rand).endTick
    _ = { s with diagnostics := [], rand := [] } := rfl
    _ = s := by rw [← hrecords, ← hrand]

/-! ## The Halted core -/

/-- `t` is Halted with the registers, PC, I, stack and configuration of `s`. -/
structure HaltedAs (s t : State) : Prop where
  run : t.run = .halted
  v : t.v = s.v
  pc : t.pc = s.pc
  i : t.i = s.i
  stack : KeepsStack s t
  cfg : t.cfg = s.cfg

/-- LOAD_PROGRAM never sets Running (R148). -/
theorem State.loadProgram_run_of_halted (h : s.run = .halted) (bytes : List Byte) :
    (s.loadProgram bytes).1.run = .halted := by
  unfold State.loadProgram
  split
  · rfl
  · exact h

namespace HaltedAs

theorem loadProgram (h : HaltedAs s t) (bytes : List Byte) : HaltedAs s (t.loadProgram bytes).1 where
  run := State.loadProgram_run_of_halted h.run bytes
  v := (t.loadProgram_v bytes).trans h.v
  pc := (t.loadProgram_pc bytes).trans h.pc
  i := (t.loadProgram_i bytes).trans h.i
  stack := ⟨(t.loadProgram_sp bytes).trans h.stack.1, (t.loadProgram_stack bytes).trans h.stack.2⟩
  cfg := (t.loadProgram_cfg bytes).trans h.cfg

theorem setTimer (h : HaltedAs s t) (which : Timer) (n : Int) : HaltedAs s (t.setTimer which n) where
  run := (t.setTimer_run which n).trans h.run
  v := (t.setTimer_v which n).trans h.v
  pc := (t.setTimer_pc which n).trans h.pc
  i := (t.setTimer_i which n).trans h.i
  stack := ⟨(t.setTimer_sp which n).trans h.stack.1, (t.setTimer_stack which n).trans h.stack.2⟩
  cfg := (t.setTimer_cfg which n).trans h.cfg

theorem endTick_beginTick (h : HaltedAs s t) (rand : List Byte) : HaltedAs s (t.beginTick rand).endTick :=
  ⟨h.run, h.v, h.pc, h.i, h.stack, h.cfg⟩

/-- No transaction but RESET leaves Halted (R139, R144, R148). -/
theorem of_transact {tr : Transaction} {u : State} {r : Response} (hreset : tr.isReset = false) (h : HaltedAs s t)
    (htr : transact tr t = .next (u, r)) : HaltedAs s u := by
  suffices hnext : ∃ p, transact tr t = .next p ∧ HaltedAs s p.1 from
    holds_of_next (P := fun p => HaltedAs s p.1) hnext htr
  cases tr with
  | reset cfg => exact absurd hreset.symm Bool.false_ne_true
  | loadProgram bytes => exact ⟨_, transact_loadProgram t bytes, h.loadProgram bytes⟩
  | tick rand ext => exact ⟨_, transact_tick (tick_halted h.run rand ext), h.endTick_beginTick rand⟩
  | setTimer which n => exact ⟨_, transact_setTimer t which n, h.setTimer which n⟩
  | snapshot => exact ⟨_, transact_snapshot t, h⟩

end HaltedAs

/-! ## The statements -/

/-- Settles O47: the steps of a tick are steps of the machine, and the end of the tick follows them. -/
theorem runningTickRunsItsBudget : Obligations.RunningTickRunsItsBudget := by
  intro rand ext s hrun
  obtain ⟨u, hu, htick, -, hcfg, -⟩ := tick_runs_budget hrun rand ext
  refine ⟨u, _, _, core_run_of_runSteps hu, htick, rfl, decTimer_toNat u.dt, decTimer_toNat u.st, rfl, rfl, ?_⟩
  rw [← hcfg]
  rfl

/-- Settles O48: the tick only sets and drops what is transient. -/
theorem haltedTickRunsNothing : Obligations.HaltedTickRunsNothing := by
  intro rand ext s hrun hquiescent
  rw [tick_halted hrun, State.finishTick, hquiescent.endTick_beginTick]
  rfl

/-- Settles O49: the buzzer reads the decremented timer, and no step has changed it before. -/
theorem buzzerFollowsTheDecrement : Obligations.BuzzerFollowsTheDecrement := by
  intro rand ext s hrun hquirk
  obtain ⟨u, -, htick, ⟨-, hst⟩, hcfg, -⟩ := tick_runs_budget hrun rand ext
  refine ⟨_, _, htick, ?_⟩
  have hbuzzer : u.decrementTimers.buzzer ext = decide (0 < (decTimer s.st).toNat) := by
    rw [State.buzzer, if_pos (hcfg ▸ hquirk), ← hst]
    rfl
  calc u.decrementTimers.buzzer ext = true
    _ ↔ 0 < s.st.toNat - 1 := by rw [hbuzzer, decide_eq_true_iff, decTimer_toNat]
    _ ↔ 1 < s.st.toNat := Nat.sub_pos_iff_lt

/-- Settles O50, by induction over the ticks: each takes one from each timer and leaves the core Running. -/
theorem timersCountDownToZero : Obligations.TimersCountDownToZero := by
  intro inputs
  induction inputs with
  | nil => exact fun s hrun => ⟨s, [], rfl, rfl, rfl, hrun⟩
  | cons input inputs ih =>
    intro s hrun
    obtain ⟨t, o, htick, htrun, htdt, htst⟩ := tick_timers hrun input.1 input.2
    obtain ⟨u, rs, hu, hudt, hust, hurun⟩ := ih t htrun
    refine ⟨u, _, runSession_cons (transact_tick htick) hu, ?_, ?_, hurun⟩
    · rw [hudt, htdt, List.length_cons, Nat.sub_sub, Nat.add_comm]
    · rw [hust, htst, List.length_cons, Nat.sub_sub, Nat.add_comm]

/-- Settles O51: the list starts empty, and each step adds at most one record to it. -/
theorem tickReportsAtMostOnePerStep : Obligations.TickReportsAtMostOnePerStep := by
  intro rand ext s
  have hstart : ReportsAtMost 0 (s.beginTick rand) := ⟨Nat.le_refl 0, List.forall_mem_nil _⟩
  cases hrun : s.run with
  | halted => exact ⟨_, _, tick_halted hrun rand ext, hstart⟩
  | running =>
    obtain ⟨u, hu, htick, -⟩ := tick_runs_budget hrun rand ext
    have hend : ReportsAtMost s.cfg.cyclesPerFrame u := hstart.of_runSteps hu
    exact ⟨_, _, htick, hend⟩

/-- Settles O54: each transaction of the session keeps the core Halted as it was. -/
theorem onlyResetLeavesHalted : Obligations.OnlyResetLeavesHalted := by
  intro trs s hrun hreset
  obtain ⟨t, rs, hsession, -, h⟩ := runSession_keeps (P := HaltedAs s) trs s
    (fun tr htr _ _ _ htransact h => h.of_transact (hreset tr htr) htransact) ⟨hrun, rfl, rfl, rfl, ⟨rfl, rfl⟩, rfl⟩
  have hregisters : KeepsRegistersBut [] s t := fun r _ => by rw [State.getV, State.getV, h.v]
  exact ⟨t, rs, hsession, h.run, hregisters, h.pc, h.i, h.stack, h.cfg⟩

end Sys2Proof.Machine
end

section
/-!
PROOFS. The session's rules of 70_reset_and_hazards.md: what LOAD_PROGRAM of a program that fits leaves (R151, R152), the
configuration, which only RESET latches (R150), and the host's random bytes, of which each step draws at most one (R155).
-/

namespace Sys2Proof.Machine

variable {s t : State}

/-! ## A program that fits -/

/-- LOAD_PROGRAM of no more bytes than there are from 0x200 up (R151). -/
theorem transact_loadProgram_of_fits (s : State) {bytes : List Byte} (h : bytes.length ≤ Config.programMax) :
    transact (.loadProgram bytes) s =
      .next ({ s with mem := Memory.writeBytes s.mem Config.programBase bytes }, .loaded .ok) := by
  rw [transact_loadProgram, State.loadProgram, if_neg (Nat.not_lt.2 h)]

/-- The cells after the writes of a program that fits: its bytes in order from 0x200, every other cell as before. -/
theorem Memory.read_writeBytes_programBase {m : Memory} (hm : Memory.wf m = true) {bytes : List Byte}
    (hfits : bytes.length ≤ Config.programMax) {a : Nat} (ha : a < Config.memSize) :
    Memory.read (Memory.writeBytes m Config.programBase bytes) a =
      if h : 0x200 ≤ a ∧ a < 0x200 + bytes.length then bytes[a - 0x200]'(by omega) else Memory.read m a := by
  have hend : Config.programBase + bytes.length ≤ Config.memSize := Nat.add_le_of_le_sub' (by decide) hfits
  exact Memory.read_writeBytes bytes hm hend ha

/-! ## The configuration (R150) -/

theorem step_cfg (h : step s = .next t) : t.cfg = s.cfg := (holds_of_next (step_effect s) h).session.1

/-- A TICK reads the configuration and does not write it. -/
theorem tick_cfg (rand : List Byte) (ext : Bool) (s : State) :
    ∃ t o, tick rand ext s = .next (t, o) ∧ t.cfg = s.cfg := by
  obtain ⟨t, o, htick, hcfg⟩ := tick_keeps (P := fun t => t.cfg = s.cfg) (fun _ _ hstep h => (step_cfg hstep).trans h)
    (fun _ h => h) rand ext s rfl
  exact ⟨t.endTick, o, htick, hcfg⟩

theorem transact_cfg {tr : Transaction} {r : Response} (hreset : tr.isReset = false)
    (htr : transact tr s = .next (t, r)) : t.cfg = s.cfg := by
  suffices hnext : ∃ p, transact tr s = .next p ∧ p.1.cfg = s.cfg from
    holds_of_next (P := fun p => p.1.cfg = s.cfg) hnext htr
  cases tr with
  | reset cfg => exact absurd hreset.symm Bool.false_ne_true
  | loadProgram bytes => exact ⟨_, transact_loadProgram s bytes, s.loadProgram_cfg bytes⟩
  | tick rand ext =>
    obtain ⟨u, o, htick, hcfg⟩ := tick_cfg rand ext s
    exact ⟨_, transact_tick htick, hcfg⟩
  | setTimer which v => exact ⟨_, transact_setTimer s which v, s.setTimer_cfg which v⟩
  | snapshot => exact ⟨_, transact_snapshot s, rfl⟩

/-! ## The supplied bytes (R155, 42_index_jump_random.md R108) -/

/-- At least `n` supplied bytes are left to draw, and the counter of free draws stands at `f`. -/
def SuppliedFor (f n : Nat) (s : State) : Prop := s.freeDraws = f ∧ n ≤ s.rand.length

namespace SuppliedFor

variable {f n : Nat}

theorem of_keepsDraws (h : SuppliedFor f n s) (hkeeps : KeepsDraws s t) : SuppliedFor f n t := by
  obtain ⟨hrand, hfree⟩ := hkeeps
  rw [SuppliedFor, hrand, hfree]
  exact h

theorem of_succ (h : SuppliedFor f (n + 1) s) : SuppliedFor f n s := ⟨h.1, Nat.le_of_succ_le h.2⟩

/-- A draw takes one of the bytes that are left, so none of the free values. -/
theorem draw (h : SuppliedFor f (n + 1) s) : SuppliedFor f n s.draw.2 := by
  obtain ⟨hfree, hleft⟩ := h
  cases hrand : s.rand with
  | nil => rw [hrand] at hleft; exact absurd hleft (Nat.not_succ_le_zero n)
  | cons r rest =>
    rw [hrand] at hleft
    rw [State.draw_of_cons hrand]
    exact ⟨hfree, Nat.le_of_succ_le_succ hleft⟩

/-- RND draws once and no other instruction draws. -/
theorem of_exec {i : Instr} (h : SuppliedFor f (n + 1) s) (hexec : exec i s = .next t) : SuppliedFor f n t := by
  by_cases hrnd : ∃ x kk, i = .rnd x kk
  · obtain ⟨x, kk, rfl⟩ := hrnd
    obtain rfl : s.draw.2.setV x (s.draw.1 &&& kk) = t := Host.Outcome.next.inj hexec
    exact h.draw
  · have frame : ExecFrame i s t := holds_of_next (exec_frame i s) hexec
    exact h.of_succ.of_keepsDraws (frame.draws fun x kk hi => hrnd ⟨x, kk, hi⟩)

theorem of_execute {d : Descriptor} (h : SuppliedFor f (n + 1) s) (hexec : execute d s = .next t) :
    SuppliedFor f n t := by
  cases d with
  | instr i => exact h.of_exec hexec
  | unknown w =>
    obtain rfl : s.raise .unknownOpcode w = t := Host.Outcome.next.inj ((execute_unknown s w).symm.trans hexec)
    exact h.of_succ.of_keepsDraws (onlyRecords_raise s _ w).draws

theorem of_step (h : SuppliedFor f (n + 1) s) (hstep : step s = .next t) : SuppliedFor f n t := by
  cases hrun : s.run with
  | halted =>
    obtain rfl : s = t := Host.Outcome.next.inj ((step_halted hrun).symm.trans hstep)
    exact h.of_succ
  | running =>
    have hadvanced : SuppliedFor f (n + 1) s.advancePc := h
    exact hadvanced.of_execute ((step_running hrun).symm.trans hstep)

/-- A supplied byte for each of the steps is enough for all of them. -/
theorem of_runSteps {executed m : Nat} (h : SuppliedFor f n s) (hrun : runSteps n executed s = .next (t, m)) :
    SuppliedFor f 0 t := by
  induction n generalizing executed s with
  | zero =>
    obtain ⟨rfl, -⟩ := Prod.mk.inj (Host.Outcome.next.inj hrun)
    exact h
  | succ n ih =>
    obtain ⟨u, hu, -⟩ := step_effect s
    rw [runSteps_succ hu] at hrun
    exact ih (h.of_step hu) hrun

end SuppliedFor

/-! ## The statements -/

/-- Settles O43: the transaction only writes memory, from 0x200 up and not past the last cell. -/
theorem loadProgramCopiesItsBytes : Obligations.LoadProgramCopiesItsBytes := by
  intro bytes s hwf hfits
  have hread {a : Nat} (ha : a < 4096) := Memory.read_writeBytes_programBase hwf hfits ha
  refine ⟨_, transact_loadProgram_of_fits s hfits, fun k hk => ?_, fun a ha hout => ?_,
    fun _ _ => rfl, rfl, rfl, ⟨rfl, rfl⟩, ⟨rfl, rfl⟩, ⟨rfl, rfl⟩, rfl, rfl, rfl⟩
  · have hin : 0x200 ≤ 0x200 + k ∧ 0x200 + k < 0x200 + bytes.length := by omega
    refine (hread (by omega)).trans ((dif_pos hin).trans ?_)
    simp only [Nat.add_sub_cancel_left]
  · exact (hread ha).trans (dif_neg (by omega))

/-- Settles O52: a Halted tick draws nothing, and the steps of a Running one draw at most a byte each. -/
theorem suppliedBytesCoverTheTick : Obligations.SuppliedBytesCoverTheTick := by
  intro rand ext s hsupplied
  cases hrun : s.run with
  | halted => exact ⟨_, _, tick_halted hrun rand ext, rfl⟩
  | running =>
    obtain ⟨u, hu, htick, -⟩ := tick_runs_budget hrun rand ext
    have hstart : SuppliedFor s.freeDraws s.cfg.cyclesPerFrame (s.beginTick rand) := ⟨rfl, hsupplied⟩
    have hend : SuppliedFor s.freeDraws 0 u := hstart.of_runSteps hu
    exact ⟨_, _, htick, hend.1⟩

/-- Settles O55: each transaction of the session keeps the configuration. -/
theorem onlyResetChangesConfig : Obligations.OnlyResetChangesConfig := by
  intro trs s hreset
  obtain ⟨t, rs, hsession, -, hcfg⟩ := runSession_keeps (P := fun t => t.cfg = s.cfg) trs s
    (fun tr htr _ _ _ htransact h => (transact_cfg (hreset tr htr) htransact).trans h) rfl
  exact ⟨t, rs, hsession, hcfg⟩

end Sys2Proof.Machine
end
